-- ==== Sys2Proof/Word.lean ====
section
/-! DEFINITION. The value widths of 00_scope.md rule R8: bytes and 6-bit register addresses. -/

namespace Sys2Proof

/-- Every bus byte, register value, address byte, length byte, status byte and raw RSSI value (R8). -/
abbrev Byte := BitVec 8

/-- A transceiver register address, 0..63 (R8, R123). -/
abbrev Addr := BitVec 6

end Sys2Proof
end

