-- ==== Sys2Proof/Config.lean ====
section
/-! DEFINITION. The implementation parameters of 00_scope.md rule R7, and the free values.

Two groups. (1) The parameters: the structure `Params`, an argument of the machine that State carries unchanged
(R30, R48). A field's default value is the value or default R7 gives it (log 7); the OPEN entries have none, and
`Config.parameters`, which State.reset carries, takes free constants within R7's bounds for them (log 6).
CONFIG_IMAGE and the local address are CONFIGURE's arguments (R48). (2) Free values, opaque constants without a
body: nothing can be proved of any one of them. -/

namespace Sys2Proof

/-! ### Parameters (R7) -/

/-- The parameters of R7. A run fixes them (R48). ADDR_BITS is the width of `Addr`, which the command byte's layout
fixes (R120, R123). -/
structure Params where
  /-- MAX_FRAME (R242), OPEN. -/
  maxFrame : Nat
  /-- TX_START_POLLS (R271), OPEN. -/
  txStartPolls : Nat
  /-- TX_END_POLLS (R271), OPEN. -/
  txEndPolls : Nat
  /-- RX_POLLS (R271), OPEN. -/
  rxPolls : Nat
  /-- COUNT_AGREE_RETRIES (R276), OPEN. -/
  countAgreeRetries : Nat
  /-- RX_AFTER_TX (R274), OPEN with a default. -/
  rxAfterTx : Bool := false
  /-- FIFO_SIZE, "64 bytes minus framing overhead". -/
  fifoSize : Nat := 64
  /-- ADDR_FIFO (D3). -/
  addrFifo : Addr := 0x3F
  /-- ADDR_RSSI (D3). -/
  addrRssi : Addr := 0x34
  /-- ADDR_MARCSTATE (D3, D20). -/
  addrMarcstate : Addr := 0x35
  /-- ADDR_RXBYTES (D3). -/
  addrRxbytes : Addr := 0x3B
  /-- CODE_SRES (R128, D3). -/
  codeSres : Byte := 0x30
  /-- CODE_SRX. -/
  codeSrx : Byte := 0x34
  /-- CODE_STX. -/
  codeStx : Byte := 0x35
  /-- CODE_SIDLE. -/
  codeSidle : Byte := 0x36
  /-- CODE_SFRX. -/
  codeSfrx : Byte := 0x3A
  /-- CODE_SFTX. -/
  codeSftx : Byte := 0x3B
  /-- CONFIG_LAST (D5). -/
  configLast : Addr := 0x2E
  /-- STATUS_FIRST (D5). -/
  statusFirst : Addr := 0x30
  /-- STATUS_LAST, the top of "[0,0x3B]". -/
  statusLast : Addr := 0x3B
  /-- RXBYTES_COUNT_MASK (D18). -/
  rxbytesCountMask : Byte := 0x7F
  /-- MARCSTATE_MASK (D20). -/
  marcstateMask : Byte := 0x1F
  /-- MARCSTATE_RXFIFO_OVERFLOW (D20). -/
  marcstateOverflow : Byte := 0x11
  /-- CRC_OK_BIT, "carries a CRC-OK flag in its high bit". -/
  crcOkBit : Fin 8 := 7
  /-- DUMMY_BYTE (D6). -/
  dummyByte : Byte := 0x00
  /-- RSSI_OFFSET, "- 74". -/
  rssiOffset : Int := 74
  /-- RSSI_VERY_WEAK_BELOW. -/
  rssiVeryWeakBelow : Int := -100
  /-- RSSI_STRONG_FROM. -/
  rssiStrongFrom : Int := -70
  /-- COMPLETION_PIN, OPEN: which transceiver output is sampled; no rule computes with it (D14). -/
  completionPin : Nat
  /-- RESET_SETTLE, OPEN: a duration the model does not measure; no rule computes with it (D44, log 16). -/
  resetSettle : Nat
  /-- SPI_CLOCK in Hz, informative (R88, log 16). -/
  spiClock : Nat := 500000
  deriving DecidableEq, Repr

/-- RX_BUF_LEN = FIFO_SIZE (R7, D36). -/
def Params.rxBufLen (p : Params) : Nat := p.fifoSize

/-- MAX_PAYLOAD = MAX_FRAME - 2 (R7). -/
def Params.maxPayload (p : Params) : Nat := p.maxFrame - 2

/-- The bounds R7 sets: 2 <= MAX_FRAME <= FIFO_SIZE - 2, and each poll budget at least 1; and a count of FIFO_SIZE bytes
fits a byte (R8, log 24). -/
abbrev Params.Legal (p : Params) : Prop :=
  2 ≤ p.maxFrame ∧ p.maxFrame + 2 ≤ p.fifoSize ∧ p.fifoSize ≤ 255 ∧
  1 ≤ p.txStartPolls ∧ 1 ≤ p.txEndPolls ∧ 1 ≤ p.rxPolls

/-- The distinctness that D3 says the rules depend on, and no more: six strobe codes that differ, each with R = 0 and
B = 0 (R126); three status registers that differ, within the status range; and a FIFO address outside it (R81,
log 24). -/
abbrev Params.Distinct (p : Params) : Prop :=
  [p.codeSres, p.codeSrx, p.codeStx, p.codeSidle, p.codeSfrx, p.codeSftx].Nodup ∧
  (∀ c ∈ [p.codeSres, p.codeSrx, p.codeStx, p.codeSidle, p.codeSfrx, p.codeSftx], c.toNat < 64) ∧
  [p.addrRssi, p.addrMarcstate, p.addrRxbytes].Nodup ∧
  (∀ a ∈ [p.addrRssi, p.addrMarcstate, p.addrRxbytes], p.statusFirst ≤ a ∧ a ≤ p.statusLast) ∧
  ¬ (p.statusFirst ≤ p.addrFifo ∧ p.addrFifo ≤ p.statusLast)

/-! ### This implementation's OPEN parameters (R7, log 6) -/

/-- MAX_FRAME of this implementation, less its least value 2: a free constant in 0..60. -/
opaque Config.maxFrameOverTwo : Fin 61
/-- TX_START_POLLS less 1: a free constant. -/
opaque Config.txStartPollsOverOne : Nat
/-- TX_END_POLLS less 1: a free constant. -/
opaque Config.txEndPollsOverOne : Nat
/-- RX_POLLS less 1: a free constant. -/
opaque Config.rxPollsOverOne : Nat
/-- COUNT_AGREE_RETRIES: a free constant. -/
opaque Config.countAgreeRetries : Nat
/-- RX_AFTER_TX: a free constant (R7 gives it a default, false, and leaves it OPEN). -/
opaque Config.rxAfterTx : Bool
/-- COMPLETION_PIN: a free constant. -/
opaque Config.completionPin : Nat
/-- RESET_SETTLE: a free constant. -/
opaque Config.resetSettle : Nat

/-- This implementation's parameters: R7's values and defaults, and free constants within R7's bounds for the OPEN
entries. -/
def Config.parameters : Params :=
  { maxFrame := 2 + Config.maxFrameOverTwo.val
    txStartPolls := Config.txStartPollsOverOne + 1
    txEndPolls := Config.txEndPollsOverOne + 1
    rxPolls := Config.rxPollsOverOne + 1
    countAgreeRetries := Config.countAgreeRetries
    rxAfterTx := Config.rxAfterTx
    completionPin := Config.completionPin
    resetSettle := Config.resetSettle }

/-! ### Free values (R97, R98, R40, R100) -/

/-- The MISO bytes of the n-th free bus answer; those past the transaction's length are not exchanged, and
fewer than its length are a short transfer (R97, log 8). -/
opaque Config.busDraw : Nat → List Byte
/-- The n-th free completion-line sample, true = asserted (R98, log 8). -/
opaque Config.lineDraw : Nat → Bool
/-- The receive outputs drawn at the n-th RECEIVE entry, by slot: 0 RX_LEN, 1 RX_ADDR, 2 RX_RSSI_RAW,
3 RX_STATUS2, 4 + i RX_BUF[i] (R40, log 9). -/
opaque Config.rxDraw : Nat → Nat → Byte
/-- The chip's default of configuration register a after the n-th reset (R100, I6, log 11). -/
opaque Config.chipDefault : Nat → Nat → Byte
/-- The reference transceiver's n-th answer to a status register that R107 does not name (log 10). -/
opaque Config.statusDraw : Nat → Byte

end Sys2Proof
end

