-- ==== Sys2Proof/Syntax.lean ====
section
/-! DEFINITION. The instructions of spec/opcode_table.json: sixteen bus command classes and fifteen host operations. -/

namespace Sys2Proof

/-- The five transport strobes, the only ones STROBE admits (R128, R203, D10). SRES is not among them: only
RESET issues it. -/
inductive Strobe where
  | sidle | sftx | sfrx | stx | srx
  deriving DecidableEq, Repr

/-- One constructor per row of the opcode table. A `bus` constructor is one chip-select-framed transaction
(30_encoding.md sections 1 to 4); the others are host operations (section 5). -/
inductive Instr where
  /-- BUS.WRITE_SINGLE, FW1: write v at a. -/
  | busWriteSingle (a : Addr) (v : Byte)
  /-- BUS.WRITE_BURST, FWB at a register address. -/
  | busWriteBurst (a : Addr) (d : List Byte)
  /-- BUS.READ_SINGLE, FR1. -/
  | busReadSingle (a : Addr)
  /-- BUS.READ_STATUS, FRS. -/
  | busReadStatus (a : Addr)
  /-- BUS.READ_BURST, FRB at a register address, n bytes. -/
  | busReadBurst (a : Addr) (n : Nat)
  /-- BUS.FIFO_WRITE, FWB at ADDR_FIFO. -/
  | busFifoWrite (d : List Byte)
  /-- BUS.FIFO_READ, FRB at ADDR_FIFO, n bytes. -/
  | busFifoRead (n : Nat)
  /-- BUS.READ_RSSI, FRS at ADDR_RSSI. -/
  | busReadRssi
  /-- BUS.READ_MARCSTATE, FRS at ADDR_MARCSTATE. -/
  | busReadMarcstate
  /-- BUS.READ_RXBYTES, FRS at ADDR_RXBYTES. -/
  | busReadRxbytes
  /-- BUS.SRES, FST. -/
  | busSres
  /-- BUS.SRX, FST. -/
  | busSrx
  /-- BUS.STX, FST. -/
  | busStx
  /-- BUS.SIDLE, FST. -/
  | busSidle
  /-- BUS.SFRX, FST. -/
  | busSfrx
  /-- BUS.SFTX, FST. -/
  | busSftx
  /-- WREG a, v (R165). -/
  | wreg (a : Addr) (v : Byte)
  /-- WBURST a, d (R166). -/
  | wburst (a : Addr) (d : List Byte)
  /-- RREG a (R167). -/
  | rreg (a : Addr)
  /-- RSTATUS a (R168). -/
  | rstatus (a : Addr)
  /-- RBURST a, n (R169). -/
  | rburst (a : Addr) (n : Byte)
  /-- STROBE code; a code other than the five is refused (R203). -/
  | strobe (code : Byte)
  /-- RESET (R209). -/
  | reset
  /-- CONFIGURE local_addr, image (R371). -/
  | configure (localAddr : Byte) (image : List (Addr × Byte))
  /-- BUILD_FRAME dest, p (R243). -/
  | buildFrame (dest : Byte) (p : List Byte)
  /-- PARSE_FRAME r; the count c is the length of r (R244). -/
  | parseFrame (r : List Byte)
  /-- SEND dest, p (R272). -/
  | send (dest : Byte) (p : List Byte)
  /-- RECEIVE (R275). -/
  | receive
  /-- SIGNAL_STRENGTH (R342). -/
  | signalStrength
  /-- RSSI_DECODE v (R340). -/
  | rssiDecode (v : Byte)
  /-- CLASSIFY d, d a signed 16-bit number (R341). -/
  | classify (d : BitVec 16)
  deriving DecidableEq, Repr

/-- Whether an instruction is one bus transaction rather than a host operation. -/
def Instr.isBus : Instr → Bool
  | .busWriteSingle .. | .busWriteBurst .. | .busReadSingle .. | .busReadStatus .. | .busReadBurst ..
  | .busFifoWrite .. | .busFifoRead .. | .busReadRssi | .busReadMarcstate | .busReadRxbytes
  | .busSres | .busSrx | .busStx | .busSidle | .busSfrx | .busSftx => true
  | .wreg .. | .wburst .. | .rreg .. | .rstatus .. | .rburst .. | .strobe .. | .reset | .configure ..
  | .buildFrame .. | .parseFrame .. | .send .. | .receive | .signalStrength | .rssiDecode .. | .classify .. => false

end Sys2Proof
end

