-- ==== Sys2Proof/WellFormed.lean ====
section
/-! DEFINITION. Which instruction terms an encoding can spell: counts that fit their count byte or their FIFO
(R136, R125), and for a bus command the row that names its words most specifically (the named FIFO and status
rows of the table before the general ones). The bus rows depend on the parameters that lay out the register map (R7). Whether the block admits a well-formed operation (R81, R403) is
Machine/Operands.lean's question, not this one's. -/

namespace Sys2Proof

/-- A host count byte holds 0..255 (R137). -/
abbrev countFits (n : Nat) : Prop := n ≤ 255

/-- A burst moves 1..FIFO_SIZE bytes (R90, R125). -/
abbrev burstFits (p : Params) (n : Nat) : Prop := 1 ≤ n ∧ n ≤ p.fifoSize

/-- STATUS_FIRST..STATUS_LAST (R81). -/
abbrev isStatusAddr (p : Params) (a : Addr) : Prop := p.statusFirst ≤ a ∧ a ≤ p.statusLast

/-- The three status registers whose read has a row of its own (R130). -/
abbrev isNamedStatus (p : Params) (a : Addr) : Prop :=
  a = p.addrRssi ∨ a = p.addrMarcstate ∨ a = p.addrRxbytes

/-- The instruction is the one its own words spell. -/
def Instr.WellFormed (p : Params) : Instr → Prop
  | .busWriteBurst a d => a ≠ p.addrFifo ∧ burstFits p d.length
  | .busReadStatus a => isStatusAddr p a ∧ ¬ isNamedStatus p a
  | .busReadBurst a n => a ≠ p.addrFifo ∧ ¬ isStatusAddr p a ∧ burstFits p n
  | .busFifoWrite d => burstFits p d.length
  | .busFifoRead n => burstFits p n
  | .wburst _ d => countFits d.length
  | .configure _ image => countFits image.length
  | .buildFrame _ d => countFits d.length
  | .parseFrame r => countFits r.length
  | .send _ d => countFits d.length
  | .busWriteSingle .. | .busReadSingle .. | .busReadRssi | .busReadMarcstate | .busReadRxbytes
  | .busSres | .busSrx | .busStx | .busSidle | .busSfrx | .busSftx
  | .wreg .. | .rreg .. | .rstatus .. | .rburst .. | .strobe .. | .reset | .receive
  | .signalStrength | .rssiDecode .. | .classify .. => True

end Sys2Proof
end

