-- ==== Sys2Proof/Decode.lean ====
section
/-! DEFINITION. The two encodings of 30_encoding.md: the bus encoding (a frame is the MOSI bytes of one
chip-select-framed transaction) and the host encoding (a byte sequence, opcode first). Decoding is total and
rejects by name; the encoder follows. -/

namespace Sys2Proof

/-! ### The command byte and the six transaction formats (R120 to R130) -/

/-- `cmd = (R << 7) | (B << 6) | A` (R123). -/
def commandByte (r b : Bool) (a : Addr) : Byte :=
  (if r then 0x80#8 else 0#8) ||| (if b then 0x40#8 else 0#8) ||| a.setWidth 8

/-- Field R, bit 7 (R121). -/
def commandRead (c : Byte) : Bool := c.getLsbD 7
/-- Field B, bit 6 (R122). -/
def commandBurst (c : Byte) : Bool := c.getLsbD 6
/-- Field A, bits 5..0 (R123). -/
def commandAddr (c : Byte) : Addr := c.setWidth 6

/-- n copies of DUMMY_BYTE (R125). -/
def dummies (p : Params) (n : Nat) : List Byte := List.replicate n p.dummyByte

/-- FW1 (R125). -/
def frameWriteSingle (a : Addr) (v : Byte) : List Byte := [commandByte false false a, v]
/-- FWB (R125). -/
def frameWriteBurst (a : Addr) (d : List Byte) : List Byte := commandByte false true a :: d
/-- FR1 (R125). -/
def frameReadSingle (p : Params) (a : Addr) : List Byte := [commandByte true false a, p.dummyByte]
/-- FRS (R125). -/
def frameReadStatus (p : Params) (a : Addr) : List Byte := [commandByte true true a, p.dummyByte]
/-- FRB (R125). -/
def frameReadBurst (p : Params) (a : Addr) (n : Nat) : List Byte := commandByte true true a :: dummies p n
/-- FST (R125). -/
def frameStrobe (code : Byte) : List Byte := [code]

/-- The code of a transport strobe (R128). -/
def Strobe.code (p : Params) : Strobe → Byte
  | .sidle => p.codeSidle
  | .sftx => p.codeSftx
  | .sfrx => p.codeSfrx
  | .stx => p.codeStx
  | .srx => p.codeSrx

/-- The transport strobe a code names; SRES and every other byte name none (R203). -/
def Strobe.ofCode (p : Params) (c : Byte) : Option Strobe :=
  if c = p.codeSftx then some .sftx
  else if c = p.codeSfrx then some .sfrx
  else if c = p.codeSidle then some .sidle
  else if c = p.codeStx then some .stx
  else if c = p.codeSrx then some .srx
  else none

/-! ### Names of the rejections -/

/-- Why a byte sequence spells no instruction (R137, R138, R403; the last three for bus frames, R131, R135). -/
inductive Reject where
  /-- There is no byte. -/
  | empty
  /-- Opcode 0x00 or 0x10..0xFF (R138). -/
  | reservedOpcode (op : Byte)
  /-- The sequence ends before its arguments are complete (R137). -/
  | truncated
  /-- An address byte with bits 7..6 not 00 (R137). -/
  | addressBits (b : Byte)
  /-- A frame of one byte that is no strobe the block issues (R128). -/
  | notAStrobe (c : Byte)
  /-- A frame whose length its format does not have (R131). -/
  | frameLength (c : Byte)
  /-- A read frame with a byte other than DUMMY_BYTE after its command (R126). -/
  | dummyExpected (c : Byte)
  deriving DecidableEq, Repr

/-! ### The bus decoder -/

/-- What a bus frame decodes to. -/
inductive BusDecoded where
  | instr (i : Instr)
  | rejected (why : Reject)
  deriving DecidableEq, Repr

/-- A frame of one byte: a strobe (FST). -/
def decodeStrobeFrame (p : Params) (c : Byte) : BusDecoded :=
  if c = p.codeSres then .instr .busSres
  else match Strobe.ofCode p c with
    | some .sidle => .instr .busSidle
    | some .sftx => .instr .busSftx
    | some .sfrx => .instr .busSfrx
    | some .stx => .instr .busStx
    | some .srx => .instr .busSrx
    | none => .rejected (.notAStrobe c)

/-- A write frame, `rest` being the bytes after the command byte (FW1, FWB). -/
def decodeWriteFrame (p : Params) (c : Byte) (rest : List Byte) : BusDecoded :=
  if commandBurst c then
    if p.fifoSize < rest.length then .rejected (.frameLength c)
    else if commandAddr c = p.addrFifo then .instr (.busFifoWrite rest)
    else .instr (.busWriteBurst (commandAddr c) rest)
  else match rest with
    | [v] => .instr (.busWriteSingle (commandAddr c) v)
    | _ => .rejected (.frameLength c)

/-- A status read, by its register (FRS; R130 names three). -/
def decodeStatusRead (p : Params) (a : Addr) : Instr :=
  if a = p.addrRssi then .busReadRssi
  else if a = p.addrMarcstate then .busReadMarcstate
  else if a = p.addrRxbytes then .busReadRxbytes
  else .busReadStatus a

/-- A read frame with n bytes after the command byte (FR1, FRS, FRB). -/
def decodeReadFrame (p : Params) (c : Byte) (n : Nat) : BusDecoded :=
  if commandBurst c then
    if p.fifoSize < n then .rejected (.frameLength c)
    else if commandAddr c = p.addrFifo then .instr (.busFifoRead n)
    else if isStatusAddr p (commandAddr c) then
      if n = 1 then .instr (decodeStatusRead p (commandAddr c)) else .rejected (.frameLength c)
    else .instr (.busReadBurst (commandAddr c) n)
  else if n = 1 then .instr (.busReadSingle (commandAddr c))
  else .rejected (.frameLength c)

/-- The instruction one frame spells, for given parameters. Every command byte has a class (R124); which frames the block ever
sends is R81's and R135's. -/
def decodeBus (p : Params) : List Byte → BusDecoded
  | [] => .rejected .empty
  | [c] => decodeStrobeFrame p c
  | c :: b :: rest =>
    if commandRead c then
      if b :: rest = dummies p (rest.length + 1) then decodeReadFrame p c (rest.length + 1)
      else .rejected (.dummyExpected c)
    else decodeWriteFrame p c (b :: rest)

/-! ### The host decoder -/

/-- What the next host operation of a byte sequence decodes to, with the bytes after it. -/
inductive HostDecoded where
  | instr (i : Instr) (rest : List Byte)
  | rejected (why : Reject) (rest : List Byte)
  deriving DecidableEq, Repr

/-- A 6-bit address in a byte, bits 7..6 being 00 (R137). -/
def addressOf (b : Byte) : Option Addr :=
  if b.toNat < 64 then some (b.setWidth 6) else none

/-- The first n bytes of a sequence and the rest. -/
def takeBytes : Nat → List Byte → Option (List Byte × List Byte)
  | 0, bs => some ([], bs)
  | _ + 1, [] => none
  | n + 1, b :: bs =>
    match takeBytes n bs with
    | some (d, rest) => some (b :: d, rest)
    | none => none

/-- The first m (address, value) byte pairs of a sequence and the rest. -/
def takePairs : Nat → List Byte → Option (List (Byte × Byte) × List Byte)
  | 0, bs => some ([], bs)
  | _ + 1, [] => none
  | _ + 1, [_] => none
  | m + 1, a :: v :: bs =>
    match takePairs m bs with
    | some (ps, rest) => some ((a, v) :: ps, rest)
    | none => none

/-- The pairs with 6-bit addresses, or the first address byte that is none. -/
def addressPairs : List (Byte × Byte) → Except Byte (List (Addr × Byte))
  | [] => .ok []
  | (b, v) :: ps =>
    match addressOf b with
    | none => .error b
    | some a =>
      match addressPairs ps with
      | .ok image => .ok ((a, v) :: image)
      | .error e => .error e

/-- An operation with one address byte, which comes first, then `k` for what follows it. -/
def withAddress (b : Byte) (rest : List Byte) (k : Addr → HostDecoded) : HostDecoded :=
  match addressOf b with
  | some a => k a
  | none => .rejected (.addressBits b) rest

/-- WREG's arguments: a, v. -/
def decodeWreg : List Byte → HostDecoded
  | b :: v :: rest => withAddress b rest fun a => .instr (.wreg a v) rest
  | _ => .rejected .truncated []

/-- WBURST's arguments: a, n, d[0..n-1]. -/
def decodeWburst : List Byte → HostDecoded
  | b :: n :: t =>
    match takeBytes n.toNat t with
    | some (d, rest) => withAddress b rest fun a => .instr (.wburst a d) rest
    | none => .rejected .truncated []
  | _ => .rejected .truncated []

/-- RREG's argument: a. -/
def decodeRreg : List Byte → HostDecoded
  | b :: rest => withAddress b rest fun a => .instr (.rreg a) rest
  | _ => .rejected .truncated []

/-- RSTATUS's argument: a. -/
def decodeRstatus : List Byte → HostDecoded
  | b :: rest => withAddress b rest fun a => .instr (.rstatus a) rest
  | _ => .rejected .truncated []

/-- RBURST's arguments: a, n. -/
def decodeRburst : List Byte → HostDecoded
  | b :: n :: rest => withAddress b rest fun a => .instr (.rburst a n) rest
  | _ => .rejected .truncated []

/-- STROBE's argument: code. -/
def decodeStrobe : List Byte → HostDecoded
  | c :: rest => .instr (.strobe c) rest
  | _ => .rejected .truncated []

/-- CONFIGURE's arguments: local_addr, m, (a0, v0), ... -/
def decodeConfigure : List Byte → HostDecoded
  | la :: m :: t =>
    match takePairs m.toNat t with
    | some (ps, rest) =>
      match addressPairs ps with
      | .ok image => .instr (.configure la image) rest
      | .error b => .rejected (.addressBits b) rest
    | none => .rejected .truncated []
  | _ => .rejected .truncated []

/-- BUILD_FRAME's arguments: dest, n, p[0..n-1]. -/
def decodeBuildFrame : List Byte → HostDecoded
  | dest :: n :: t =>
    match takeBytes n.toNat t with
    | some (p, rest) => .instr (.buildFrame dest p) rest
    | none => .rejected .truncated []
  | _ => .rejected .truncated []

/-- PARSE_FRAME's arguments: c, r[0..c-1]. -/
def decodeParseFrame : List Byte → HostDecoded
  | c :: t =>
    match takeBytes c.toNat t with
    | some (r, rest) => .instr (.parseFrame r) rest
    | none => .rejected .truncated []
  | _ => .rejected .truncated []

/-- SEND's arguments: dest, n, p[0..n-1]. -/
def decodeSend : List Byte → HostDecoded
  | dest :: n :: t =>
    match takeBytes n.toNat t with
    | some (p, rest) => .instr (.send dest p) rest
    | none => .rejected .truncated []
  | _ => .rejected .truncated []

/-- RSSI_DECODE's argument: v. -/
def decodeRssiDecode : List Byte → HostDecoded
  | v :: rest => .instr (.rssiDecode v) rest
  | _ => .rejected .truncated []

/-- CLASSIFY's arguments: d_hi, d_lo (R137). -/
def decodeClassify : List Byte → HostDecoded
  | hi :: lo :: rest => .instr (.classify (hi ++ lo)) rest
  | _ => .rejected .truncated []

/-- The next host operation of a byte sequence (R136). -/
def decodeHost : List Byte → HostDecoded
  | [] => .rejected .empty []
  | op :: t =>
    match op.toNat with
    | 0x01 => decodeWreg t
    | 0x02 => decodeWburst t
    | 0x03 => decodeRreg t
    | 0x04 => decodeRstatus t
    | 0x05 => decodeRburst t
    | 0x06 => decodeStrobe t
    | 0x07 => .instr .reset t
    | 0x08 => decodeConfigure t
    | 0x09 => decodeBuildFrame t
    | 0x0A => decodeParseFrame t
    | 0x0B => decodeSend t
    | 0x0C => .instr .receive t
    | 0x0D => .instr .signalStrength t
    | 0x0E => decodeRssiDecode t
    | 0x0F => decodeClassify t
    | _ => .rejected (.reservedOpcode op) t

/-! ### The encoder -/

/-- A count byte (R136). -/
def countByte (n : Nat) : Byte := BitVec.ofNat 8 n

/-- A 6-bit address in a byte (R137). -/
def addressByte (a : Addr) : Byte := a.setWidth 8

/-- CONFIGURE's pairs, in order. -/
def encodePairs : List (Addr × Byte) → List Byte
  | [] => []
  | (a, v) :: image => addressByte a :: v :: encodePairs image

/-- The bytes of an instruction: a bus command's frame (R125), a host operation's sequence (R136). -/
def encode (p : Params) : Instr → List Byte
  | .busWriteSingle a v => frameWriteSingle a v
  | .busWriteBurst a d => frameWriteBurst a d
  | .busReadSingle a => frameReadSingle p a
  | .busReadStatus a => frameReadStatus p a
  | .busReadBurst a n => frameReadBurst p a n
  | .busFifoWrite d => frameWriteBurst p.addrFifo d
  | .busFifoRead n => frameReadBurst p p.addrFifo n
  | .busReadRssi => frameReadStatus p p.addrRssi
  | .busReadMarcstate => frameReadStatus p p.addrMarcstate
  | .busReadRxbytes => frameReadStatus p p.addrRxbytes
  | .busSres => frameStrobe p.codeSres
  | .busSrx => frameStrobe p.codeSrx
  | .busStx => frameStrobe p.codeStx
  | .busSidle => frameStrobe p.codeSidle
  | .busSfrx => frameStrobe p.codeSfrx
  | .busSftx => frameStrobe p.codeSftx
  | .wreg a v => [0x01#8, addressByte a, v]
  | .wburst a d => 0x02#8 :: addressByte a :: countByte d.length :: d
  | .rreg a => [0x03#8, addressByte a]
  | .rstatus a => [0x04#8, addressByte a]
  | .rburst a n => [0x05#8, addressByte a, n]
  | .strobe c => [0x06#8, c]
  | .reset => [0x07#8]
  | .configure la image => 0x08#8 :: la :: countByte image.length :: encodePairs image
  | .buildFrame dest d => 0x09#8 :: dest :: countByte d.length :: d
  | .parseFrame r => 0x0A#8 :: countByte r.length :: r
  | .send dest d => 0x0B#8 :: dest :: countByte d.length :: d
  | .receive => [0x0C#8]
  | .signalStrength => [0x0D#8]
  | .rssiDecode v => [0x0E#8, v]
  | .classify d => [0x0F#8, d.extractLsb' 8 8, d.extractLsb' 0 8]

/-! ### Words numbered as the opcode table numbers them (log 17) -/

/-- The k low bytes of w, least significant first: byte 0 of the instruction first. -/
def wordBytes : Nat → Nat → List Byte
  | 0, _ => []
  | k + 1, w => BitVec.ofNat 8 w :: wordBytes k (w / 256)

/-- The longest host operation, 3 + 2 * 255 bytes (R131). -/
def longestHostOp : Nat := 513

/-- The bytes of a host operation whose first bytes are given and whose others are 0. -/
def hostWordBytes (bs : List Byte) : List Byte := bs ++ List.replicate (longestHostOp - bs.length) 0#8

/-- The frame of a bus command whose first bytes are given: as given if that is a whole frame (a strobe),
else with one operand byte of 0. -/
def busWordFrame (p : Params) (bs : List Byte) : List Byte :=
  match decodeBus p bs with
  | .instr _ => bs
  | .rejected _ => bs ++ [0#8]

/-- The instruction a table word spells: a host operation if its opcode is one (R136), else a bus command, at R7's
parameter values. -/
def decodeTableWord (nbits w : Nat) : Option Instr :=
  match decodeHost (hostWordBytes (wordBytes (nbits / 8) w)) with
  | .instr i _ => some i
  | .rejected _ _ =>
    match decodeBus Config.parameters (busWordFrame Config.parameters (wordBytes (nbits / 8) w)) with
    | .instr i => some i
    | .rejected _ => none

end Sys2Proof
end

