-- ==== Sys2Proof/Machine/State.lean ====
section
/-! DEFINITION. The state of WS-CORE (10_state.md), what a run shows (20_memory.md R99), the environment that
answers the bus (20_memory.md sections 4 and 5), and the state after power-on (R47, R450). -/

namespace Sys2Proof.Machine

/-! ### Enumerated registers -/

/-- LINK_MODE's values; its fourth encoding is never written (R31, I33). -/
inductive LinkMode where
  | idle | tx | rx
  deriving DecidableEq, Repr

/-- LINK_MODE's 2-bit encoding (R31). -/
def LinkMode.code : LinkMode → BitVec 2
  | .idle => 0
  | .tx => 1
  | .rx => 2

/-- PHASE's values (R37). -/
inductive Phase where
  | none
  | xfer
  | strobe
  | rstPulse | rstSres | rstSettle
  | cfgWrite (i : Nat)
  | sCheck | sIdle1 | sFlush1 | sLoad | sStx | sWaitStart | sWaitEnd | sIdle2 | sFlush2
  | sRxFlush | sRxEnter | sToIdle | sToFlush
  | rIdle | rFlush | rSrx | rWait | rCount1 | rCount2 | rCountRetry (k : Nat) | rState
  | rOvfIdle | rOvfFlush | rOvfSrx | rBurst | rCrc | rAddr | rDeliver | rResIdle | rResFlush | rResSrx
  | qRead
  deriving DecidableEq, Repr

/-- OUTCOME's values (R38). -/
inductive OutcomeCode where
  | ok | noData | busFault | payloadTooLarge | rxFifoOverflow | crcError | addressMismatch
  | txTimeout | rxTimeout | malformed | none
  deriving DecidableEq, Repr

/-- OUTCOME's 4-bit encoding (R38); 10..14 are never written. -/
def OutcomeCode.code : OutcomeCode → BitVec 4
  | .ok => 0
  | .noData => 1
  | .busFault => 2
  | .payloadTooLarge => 3
  | .rxFifoOverflow => 4
  | .crcError => 5
  | .addressMismatch => 6
  | .txTimeout => 7
  | .rxTimeout => 8
  | .malformed => 9
  | .none => 15

/-- DETAIL's sub-reasons (R39). -/
inductive SubReason where
  | none | malformedLength | malformedFrame | countOverBuffer | countUnstable
  deriving DecidableEq, Repr

/-- DETAIL: the phase at which the outcome was raised, and a sub-reason (R39). -/
structure Detail where
  phase : Phase
  sub : SubReason
  deriving DecidableEq, Repr

/-- LQ_CLASS's values (R43); its fourth encoding is never written. -/
inductive LqClass where
  | veryWeak | moderate | strong
  deriving DecidableEq, Repr

/-- LQ_CLASS's 2-bit encoding (R43, D31). -/
def LqClass.code : LqClass → BitVec 2
  | .veryWeak => 0
  | .moderate => 1
  | .strong => 2

/-- Which registers R47 leaves unwritten at power-on have been written since. A read of one that has not is
F_UNWRITTEN (R402). TX_FRAME needs no mark: TX_FRAME_LEN says what of it is written (R41). -/
structure Written where
  localAddr : Bool
  rx : Bool
  lqRaw : Bool
  lqDbm : Bool
  lqClass : Bool
  rdData : Bool
  pf : Bool
  deriving DecidableEq, Repr

/-! ### Reasons -/

/-- The model faults of R402. The spec gives their effect (FAULTED <- 1, nothing else), so exec answers a NEXT
state that records one in `faultCause`; no meaning answers `.fault` (log 4). Safe: the spec says each errs
toward unprovable. -/
inductive Fault where
  /-- F_BUSY: raised by every host operation issued while BUSY = 1. -/
  | busy
  /-- F_NOT_INITIALISED: raised by every bus operation and bus command but RESET and its SRES while INITIALISED = 0. -/
  | notInitialised
  /-- F_NOT_CONFIGURED: raised by SEND, RECEIVE and SIGNAL_STRENGTH while CONFIGURED = 0. -/
  | notConfigured
  /-- F_FLUSH_NOT_IDLE: raised by STROBE SFTX and STROBE SFRX while LINK_MODE is TX or RX. -/
  | flushNotIdle
  /-- F_SETTLE: raised by a bus command issued during the reset settle wait. -/
  | settle
  /-- F_UNWRITTEN: raised by RECEIVE's address comparison while LOCAL_ADDR is unwritten. -/
  | unwritten
  deriving DecidableEq, Repr

/-- Reasons for having no meaning. -/
inductive Refusal where
  /-- The instruction has no meaning yet; raised by exec's arms only. Safe. -/
  | notModelled (mnemonic : String)
  deriving DecidableEq, Repr

/-- The host interface's last answer: an outcome was recorded (R405), or the operation was refused as "not
admitted" (R403). The model's own field (log 3). -/
inductive Reply where
  | none | outcome | notAdmitted
  deriving DecidableEq, Repr

/-! ### The bus trace -/

/-- What a run shows (R99). -/
inductive Event where
  | csLow
  | csHigh
  | xchg (mosi miso : Byte)
  | sample (level : Bool)
  | settle
  deriving DecidableEq, Repr

/-! ### The environment -/

/-- The reference transceiver's mode (R100). -/
inductive ChipMode where
  | idle | rx | tx | rxFifoOverflow
  deriving DecidableEq, Repr

/-- What the completion line does next after a reference STX (R105): it asserts, then it deasserts. -/
inductive TxStage where
  | off | toAssert | toDeassert
  deriving DecidableEq, Repr

/-- A scripted incoming frame with its two appended status bytes (R100). -/
structure ScriptedFrame where
  frame : List Byte
  status1 : Byte
  status2 : Byte
  /-- How many transactions and samples the chip answers in RX, after the frame before it, before this one arrives (log 10). -/
  wait : Nat := 0
  deriving DecidableEq, Repr

/-- Addressed memory: cells in strictly rising address order (log 11). -/
abbrev Memory := List Host.Cell

/-- The reference transceiver (20_memory.md section 5), for simulation only. -/
structure Chip where
  /-- CMODE. -/
  cmode : ChipMode
  /-- CREG; an unlisted address reads as the chip's default. -/
  creg : Memory
  /-- How many resets there have been, which indexes the defaults (log 11). -/
  era : Nat
  /-- TXF. -/
  txFifo : List Byte
  /-- RXF. -/
  rxFifo : List Byte
  /-- RSSI_NOW. -/
  rssiNow : Byte
  /-- LINE. -/
  line : Bool
  txStage : TxStage
  /-- The script of incoming frames. -/
  frames : List ScriptedFrame
  /-- The script of RSSI values. -/
  rssiScript : List Byte
  /-- How many status reads were answered by a free value. -/
  statusDraws : Nat
  deriving DecidableEq, Repr

/-- Who answers the bus and the completion line: the unconstrained oracle of R97 and R98, or the reference
transceiver. -/
inductive AnswerSource where
  | oracle | reference
  deriving DecidableEq, Repr

/-- The environment agent (R6 (3), R49). The tapes are answers already settled, consumed first; when one is
empty the answer is a free value (log 8). A bus answer is the list of MISO bytes of the bytes the bus moved. -/
structure Env where
  source : AnswerSource
  busTape : List (List Byte)
  lineTape : List Bool
  busDraws : Nat
  lineDraws : Nat
  chip : Chip
  deriving DecidableEq, Repr

/-! ### The state -/

/-- The machine. The registers down to `written` are the spec's; the others are the model's own (log 1 to 9,
12, 13, 21). -/
structure State where
  /-- LINK_MODE (R31). -/
  linkMode : LinkMode
  /-- LOCAL_ADDR (R32). -/
  localAddr : Byte
  /-- CS, true = high = not selected (R33). -/
  cs : Bool
  /-- INITIALISED (R34). -/
  initialised : Bool
  /-- CONFIGURED (R35). -/
  configured : Bool
  /-- BUSY (R36). -/
  busy : Bool
  /-- PHASE (R37). -/
  phase : Phase
  /-- OUTCOME (R38). -/
  outcome : OutcomeCode
  /-- DETAIL (R39). -/
  detail : Detail
  /-- RX_LEN (R40). -/
  rxLen : Byte
  /-- RX_ADDR (R40). -/
  rxAddr : Byte
  /-- RX_BUF, RX_BUF_LEN bytes (R40). -/
  rxBuf : List Byte
  /-- RX_RSSI_RAW (R40). -/
  rxRssiRaw : Byte
  /-- RX_STATUS2 (R40). -/
  rxStatus2 : Byte
  /-- TX_FRAME, MAX_FRAME bytes (R80), of which the first TX_FRAME_LEN are the frame (R41, log 22). -/
  txFrame : List Byte
  /-- TX_FRAME_LEN (R41). -/
  txFrameLen : Nat
  /-- POLLS (R42). -/
  polls : Nat
  /-- RETRIES (R42). -/
  retries : Nat
  /-- LQ_RAW (R43). -/
  lqRaw : Byte
  /-- LQ_DBM (R43). -/
  lqDbm : Int
  /-- LQ_CLASS (R43). -/
  lqClass : LqClass
  /-- RD_DATA (R46). -/
  rdData : List Byte
  /-- PF_LEN (R46). -/
  pfLen : Byte
  /-- PF_ADDR (R46). -/
  pfAddr : Byte
  /-- PF_PAYLOAD (R46). -/
  pfPayload : List Byte
  /-- FAULTED (R51). -/
  faulted : Bool
  /-- Which registers have been written (R32, R40, R43, R46). -/
  written : Written
  /-- The bus trace, oldest event first (R99, log 21). -/
  trace : List Event
  /-- The parameters, an argument of the machine that no step writes (R7, R30, R48, log 6, 7). -/
  params : Params
  /-- The environment (R49, log 8, 10). -/
  env : Env
  /-- How many RECEIVE operations have drawn the receive outputs (log 9). -/
  rxDraws : Nat
  /-- Which model fault set FAULTED (log 4). -/
  faultCause : Option Fault
  /-- The host interface's last answer (log 3). -/
  reply : Reply
  /-- The data bytes of the last completed BUS read command (log 13). -/
  busData : List Byte
  /-- Host operation bytes issued and not yet taken (log 2). -/
  hostIn : List Byte
  /-- Frames handed to the bus master port and not yet issued (log 1). -/
  busIn : List (List Byte)
  deriving DecidableEq, Repr

/-- The reference transceiver at chip power-on, with nothing scripted (R100, log 10). -/
def Chip.powerOn : Chip :=
  { cmode := .idle, creg := [], era := 0, txFifo := [], rxFifo := [], rssiNow := 0, line := false,
    txStage := .off, frames := [], rssiScript := [], statusDraws := 0 }

/-- The unconstrained oracle: no answer is settled (R97, R98). -/
def Env.oracle : Env :=
  { source := .oracle, busTape := [], lineTape := [], busDraws := 0, lineDraws := 0, chip := .powerOn }

/-- Nothing written (R47). -/
def Written.nothing : Written :=
  { localAddr := false, rx := false, lqRaw := false, lqDbm := false, lqClass := false, rdData := false, pf := false }

/-- The power-on state of R47 and R450 for given parameters, environment and host bytes: what a run starts
from (R12). The value of a register R47 leaves unwritten is 0, VERY_WEAK or the empty sequence (DESIGN CHOICE,
log 5). -/
def State.powerOn (params : Params) (env : Env) (program : List Byte) : State :=
  { linkMode := .idle
    localAddr := 0
    cs := true
    initialised := false
    configured := false
    busy := false
    phase := .none
    outcome := .none
    detail := ⟨.none, .none⟩
    rxLen := 0
    rxAddr := 0
    rxBuf := List.replicate params.rxBufLen 0
    rxRssiRaw := 0
    rxStatus2 := 0
    txFrame := List.replicate params.maxFrame 0
    txFrameLen := 0
    polls := 0
    retries := 0
    lqRaw := 0
    lqDbm := 0
    lqClass := .veryWeak
    rdData := []
    pfLen := 0
    pfAddr := 0
    pfPayload := []
    faulted := false
    written := .nothing
    trace := []
    params := params
    env := env
    rxDraws := 0
    faultCause := none
    reply := .none
    busData := []
    hostIn := program
    busIn := [] }

/-- The machine right after reset: power-on (R47) with this implementation's parameters, an unconstrained oracle and no host
operation issued. -/
def State.reset : State := State.powerOn Config.parameters Env.oracle []

end Sys2Proof.Machine
end

