-- ==== Sys2Proof/Machine/Memory.lean ====
section
/-! DEFINITION. Addressed memory in one canonical form: cells in strictly rising address order, each address
a 6-bit register address (R81). Its one use is the reference transceiver's CREG; the block
itself has no addressed memory (R86, R95). -/

namespace Sys2Proof.Machine

/-- The byte written at an address, if one was. -/
def Memory.read : Memory → Nat → Option Byte
  | [], _ => none
  | (b, w) :: m, a => if a = b then some w else Memory.read m a

/-- Writes a byte, keeping the cells in rising order. -/
def Memory.write : Memory → Nat → Byte → Memory
  | [], a, v => [(a, v)]
  | (b, w) :: m, a, v =>
    if a < b then (a, v) :: (b, w) :: m
    else if a = b then (a, v) :: m
    else (b, w) :: Memory.write m a v

/-- The canonical form. What an unlisted address reads as is a free value (log 11), so no entry can be known
equal to it. -/
abbrev Memory.wf (m : Memory) : Prop :=
  m.Pairwise (fun x y => x.1 < y.1) ∧ ∀ c ∈ m, c.1 < 64

end Sys2Proof.Machine
end

