-- ==== Sys2Proof/Machine/Reference.lean ====
section
/-! DEFINITION. The reference transceiver of 20_memory.md rules R100 to R109: a deterministic chip for runners
and smoke tests, for given parameters. No claim about the block rests on it (D38). What those rules leave open is log 10. -/

namespace Sys2Proof.Machine

/-- The chip after SRES and its settle wait (R100, R108). The scripts and RSSI_NOW are the test's and stay. -/
def Chip.afterSres (c : Chip) : Chip :=
  { c with cmode := .idle, creg := [], era := c.era + 1, txFifo := [], rxFifo := [], line := false, txStage := .off }

/-- A configuration register (R102); one not written since reset holds its default. -/
def Chip.register (c : Chip) (a : Nat) : Byte :=
  match Memory.read c.creg a with
  | some v => v
  | none => Config.chipDefault c.era a

/-- Writes from address a on, in order (R102); past the last configuration register nothing is written. -/
def Chip.writeRegisters (p : Params) (c : Chip) (a : Nat) : List Byte → Chip
  | [] => c
  | v :: vs =>
    if a ≤ p.configLast.toNat then
      Chip.writeRegisters p { c with creg := Memory.write c.creg a v } (a + 1) vs
    else c

/-- n registers from address a on (R102). -/
def Chip.readRegisters (c : Chip) (a : Nat) : Nat → List Byte
  | 0 => []
  | n + 1 => c.register a :: Chip.readRegisters c (a + 1) n

/-- A burst write at ADDR_FIFO appends to TXF, which holds FIFO_SIZE bytes (R103). -/
def Chip.fifoWrite (p : Params) (c : Chip) (d : List Byte) : Chip :=
  { c with txFifo := (c.txFifo ++ d).take p.fifoSize }

/-- A burst read of n bytes at ADDR_FIFO pops from RXF; a byte past the end reads 0x00 (R103). -/
def Chip.fifoRead (c : Chip) (n : Nat) : List Byte × Chip :=
  (c.rxFifo.take n ++ List.replicate (n - c.rxFifo.length) 0#8, { c with rxFifo := c.rxFifo.drop n })

/-- MARCSTATE (R107). -/
def ChipMode.marcstate : ChipMode → Byte
  | .idle => 0x01
  | .rx => 0x0D
  | .tx => 0x13
  | .rxFifoOverflow => 0x11

/-- RXBYTES (R107). -/
def Chip.rxbytes (c : Chip) : Byte :=
  (if c.cmode = .rxFifoOverflow then 0x80#8 else 0#8) ||| BitVec.ofNat 8 c.rxFifo.length

/-- A status read (R107). An RSSI read takes the next scripted value, if there is one, into RSSI_NOW; a status
register R107 does not name reads as a free value. -/
def Chip.statusRead (p : Params) (c : Chip) (a : Addr) : Byte × Chip :=
  if a = p.addrRxbytes then (c.rxbytes, c)
  else if a = p.addrMarcstate then (c.cmode.marcstate, c)
  else if a = p.addrRssi then
    match c.rssiScript with
    | [] => (c.rssiNow, c)
    | v :: vs => (v, { c with rssiNow := v, rssiScript := vs })
  else (Config.statusDraw c.statusDraws, { c with statusDraws := c.statusDraws + 1 })

/-- A strobe (R104, R105, R106); SRES acts at the settle wait (R108). SRX enters RX with the line low, and changes
nothing in RX (R91, log 10). -/
def Chip.strobe (c : Chip) (s : Strobe) : Chip :=
  match s with
  | .sidle => { c with cmode := .idle, line := false, txStage := .off }
  | .sftx => if c.cmode = .idle then { c with txFifo := [] } else c
  | .sfrx =>
    if c.cmode = .idle ∨ c.cmode = .rxFifoOverflow then { c with rxFifo := [], cmode := .idle } else c
  | .stx => { c with cmode := .tx, txStage := .toAssert }
  | .srx => if c.cmode = .rx then c else { c with cmode := .rx, line := false, txStage := .off }

/-- What one instruction's transaction does to the reference chip: the bytes after MISO byte 0, and the chip. A frame the
block never sends does nothing and reads zeros. -/
def Chip.transact (p : Params) (c : Chip) (mosi : List Byte) : List Byte × Chip :=
  let zeros := List.replicate (mosi.length - 1) 0#8
  match decodeBus p mosi with
  | .instr (.busWriteSingle a v) => (zeros, c.writeRegisters p a.toNat [v])
  | .instr (.busWriteBurst a d) => (zeros, c.writeRegisters p a.toNat d)
  | .instr (.busFifoWrite d) => (zeros, c.fifoWrite p d)
  | .instr (.busReadSingle a) => (c.readRegisters a.toNat 1, c)
  | .instr (.busReadBurst a n) => (c.readRegisters a.toNat n, c)
  | .instr (.busFifoRead n) => c.fifoRead n
  | .instr (.busReadStatus a) => let r := c.statusRead p a; ([r.1], r.2)
  | .instr .busReadRssi => let r := c.statusRead p p.addrRssi; ([r.1], r.2)
  | .instr .busReadMarcstate => let r := c.statusRead p p.addrMarcstate; ([r.1], r.2)
  | .instr .busReadRxbytes => let r := c.statusRead p p.addrRxbytes; ([r.1], r.2)
  | .instr .busSrx => ([], c.strobe .srx)
  | .instr .busStx => ([], c.strobe .stx)
  | .instr .busSidle => ([], c.strobe .sidle)
  | .instr .busSfrx => ([], c.strobe .sfrx)
  | .instr .busSftx => ([], c.strobe .sftx)
  | _ => (zeros, c)

/-- The next scripted frame arrives in RXF (R106). -/
def Chip.arrive (p : Params) (c : Chip) (f : ScriptedFrame) (later : List ScriptedFrame) : Chip :=
  let q := c.rxFifo ++ f.frame ++ [f.status1, f.status2]
  { c with
    frames := later
    line := true
    rxFifo := q.take p.fifoSize
    cmode := if p.fifoSize < q.length then .rxFifoOverflow else c.cmode }

/-- The moment that passes before the chip answers a transaction or a sample: while CMODE = RX the next scripted frame
arrives, unless the script has it wait (R106, log 10). -/
def Chip.listen (p : Params) (c : Chip) : Chip :=
  match c.cmode, c.frames with
  | .rx, f :: later =>
    match f.wait with
    | 0 => c.arrive p f later
    | n + 1 => { c with frames := { f with wait := n } :: later }
  | _, _ => c

/-- A transaction's MISO bytes, byte 0 being 0x00 (R101). -/
def Chip.answer (p : Params) (c : Chip) (mosi : List Byte) : List Byte × Chip :=
  let r := (c.listen p).transact p mosi
  (0#8 :: r.1, r.2)

/-- What a sample reads of the line, and what it does to a transmission (R105). -/
def Chip.readLine (c : Chip) : Bool × Chip :=
  match c.cmode, c.txStage with
  | .tx, .toAssert => (true, { c with line := true, txStage := .toDeassert })
  | .tx, .toDeassert => (false, { c with line := false, txStage := .off, txFifo := [], cmode := .idle })
  | _, _ => (c.line, c)

/-- One completion-line sample (R105, R106). -/
def Chip.sample (p : Params) (c : Chip) : Bool × Chip := (c.listen p).readLine

end Sys2Proof.Machine
end

