-- ==== Sys2Proof/Machine/Environment.lean ====
section
/-! DEFINITION. How the environment answers a transaction and a completion-line sample (R97, R98, log 8). -/

namespace Sys2Proof.Machine

/-- The MISO bytes of the bytes the bus moved, at most as many as were sent: n is their number (R97). -/
def Env.busAnswer (p : Params) (e : Env) (mosi : List Byte) : List Byte × Env :=
  match e.source with
  | .oracle =>
    match e.busTape with
    | a :: rest => (a.take mosi.length, { e with busTape := rest })
    | [] => ((Config.busDraw e.busDraws).take mosi.length, { e with busDraws := e.busDraws + 1 })
  | .reference =>
    let r := e.chip.answer p mosi
    (r.1.take mosi.length, { e with chip := r.2 })

/-- One completion-line sample, true = asserted (R98). -/
def Env.lineAnswer (p : Params) (e : Env) : Bool × Env :=
  match e.source with
  | .oracle =>
    match e.lineTape with
    | l :: rest => (l, { e with lineTape := rest })
    | [] => (Config.lineDraw e.lineDraws, { e with lineDraws := e.lineDraws + 1 })
  | .reference =>
    let r := e.chip.sample p
    (r.1, { e with chip := r.2 })

/-- The settle wait after SRES: the chip is as after reset (R108); the oracle's chip is not modelled. -/
def Env.settled (e : Env) : Env :=
  match e.source with
  | .oracle => e
  | .reference => { e with chip := e.chip.afterSres }

/-- How the environment of a state answers a transaction (R97). -/
def State.busAnswer (s : State) (mosi : List Byte) : List Byte × Env := s.env.busAnswer s.params mosi

/-- How the environment of a state answers a sample (R98). -/
def State.lineAnswer (s : State) : Bool × Env := s.env.lineAnswer s.params

end Sys2Proof.Machine
end

