-- ==== Sys2Proof/Machine/Flags.lean ====
section
/-! DEFINITION. The conditions the block computes where it uses them and does not keep (10_state.md R45), and
the decoding of raw status values. -/

namespace Sys2Proof.Machine

/-- CrcOk: bit CRC_OK_BIT of the second appended status byte (R282). -/
def crcOk (p : Params) (s2 : Byte) : Bool := s2.getLsbD p.crcOkBit

/-- MARCSTATE indicates RX-FIFO overflow (R278). -/
def overflowIndicated (p : Params) (m : Byte) : Bool := (m &&& p.marcstateMask) == p.marcstateOverflow

/-- The RX byte count, the bits of RXBYTES that RXBYTES_COUNT_MASK keeps (R276, D18). -/
def rxCount (p : Params) (c : Byte) : Nat := (c &&& p.rxbytesCountMask).toNat

/-- AddrMatch: 8-bit equality with LOCAL_ADDR, no wildcard (R284). -/
def addrMatch (localAddr a : Byte) : Bool := a == localAddr

/-- A raw RSSI byte read as a signed 8-bit number (R340). -/
def signed8 (v : Byte) : Int := if 128 ≤ v.toNat then (v.toNat : Int) - 256 else v.toNat

/-- A raw RSSI byte in dBm; the division truncates toward zero (R340, D30). -/
def rssiDbm (p : Params) (v : Byte) : Int := Int.tdiv (signed8 v) 2 - p.rssiOffset

/-- The class of a dBm value; RSSI_STRONG_FROM itself is STRONG (R341, C2). -/
def classOf (p : Params) (d : Int) : LqClass :=
  if d < p.rssiVeryWeakBelow then .veryWeak
  else if d < p.rssiStrongFrom then .moderate
  else .strong

end Sys2Proof.Machine
end

