-- ==== Sys2Proof/Machine/Operands.lean ====
section
/-! DEFINITION. Which operands the block admits (20_memory.md R81, 40_register_access.md R163 to R169,
45_configuration.md R371), and the forms operands take in a frame of the wire (42_framing.md R240). -/

namespace Sys2Proof.Machine

/-- A configuration register: 0x00..CONFIG_LAST (R81). -/
def isConfigAddr (p : Params) (a : Addr) : Bool := a ≤ p.configLast

/-- A status register RSTATUS reaches: STATUS_FIRST..STATUS_LAST (R81, R168). -/
def isStatusRegister (p : Params) (a : Addr) : Bool := p.statusFirst ≤ a && a ≤ p.statusLast

/-- A malformed burst length: 0 or more than FIFO_SIZE (R163). -/
def burstLengthBad (p : Params) (n : Nat) : Bool := n == 0 || p.fifoSize < n

/-- A burst's address: ADDR_FIFO, or a configuration register from which n bytes do not run past CONFIG_LAST;
the end is checked only when the length is not malformed (R166, R169). -/
def burstAddrOk (p : Params) (a : Addr) (n : Nat) : Bool :=
  a == p.addrFifo ||
  (isConfigAddr p a && (burstLengthBad p n || a.toNat + n ≤ p.configLast.toNat + 1))

/-- CONFIGURE's pairs all name configuration registers (R371). -/
def imageOk (p : Params) (image : List (Addr × Byte)) : Bool := image.all fun x => isConfigAddr p x.1

/-- The frame `[L, A] ++ P` with L = n + 1 (R240, R241). -/
def frameOf (dest : Byte) (p : List Byte) : List Byte := BitVec.ofNat 8 (p.length + 1) :: dest :: p

/-- A payload too large for MAX_FRAME (R242, R243). -/
def payloadTooLarge (maxFrame : Nat) (p : List Byte) : Bool := maxFrame < p.length + 2

/-- Byte i of a sequence; every use is at an index within it. -/
def byteAt (r : List Byte) (i : Nat) : Byte := r.getD i 0

/-- The payload of an image, bytes 2..L (R241). -/
def payloadOf (r : List Byte) (len : Nat) : List Byte := (r.drop 2).take (len - 1)

/-- PARSE_FRAME's malformed inputs: fewer than 2 bytes, a length byte of 0, or one that claims more bytes than
there are (R244). -/
def frameMalformed (r : List Byte) : Bool :=
  r.length < 2 || (byteAt r 0).toNat == 0 || r.length < (byteAt r 0).toNat + 1

/-- RECEIVE's malformed images: a length byte of 0, or an image too short for the frame and its two status
bytes (R281). -/
def imageMalformed (r : List Byte) (count : Nat) : Bool :=
  (byteAt r 0).toNat == 0 || count < (byteAt r 0).toNat + 3

end Sys2Proof.Machine
end

