-- ==== Sys2Proof/Machine/Ops.lean ====
section
/-! DEFINITION. The shared operations: how an operation ends (60_exceptions.md), how it is admitted
(40_register_access.md R164, 60_exceptions.md R404), the bus transaction (R160), the strobe (R200), and the
completion-line poll (43_link.md R271).

An operation that can end early is written with its continuation last: `xferAt p mosi s k` performs the
transaction at phase p and goes on with `k` unless the transaction is short, in which case the operation ends
there with BUS_FAULT (R162, R288). -/

namespace Sys2Proof.Machine

/-! ### Endings -/

/-- `raise X(phase, sub)` (R405): writes OUTCOME and DETAIL, PHASE <- NONE, BUSY <- 0, and undoes nothing. -/
def raise (o : OutcomeCode) (p : Phase) (sub : SubReason) (s : State) : State :=
  { s with outcome := o, detail := ⟨p, sub⟩, phase := .none, busy := false, reply := .outcome }

/-- `fault F` (R402): sets FAULTED and changes nothing else. -/
def modelFault (f : Fault) (s : State) : State :=
  { s with faulted := true, faultCause := some f }

/-- `refuse` (R403): nothing changes, and the host is told "not admitted". -/
def refuse (s : State) : State := { s with reply := .notAdmitted }

/-! ### Admission -/

/-- An argument outcome decided before any bus activity (R404 item 4). -/
structure ArgOutcome where
  outcome : OutcomeCode
  phase : Phase
  sub : SubReason
  deriving DecidableEq, Repr

/-- The state faults of R404 item 5 that an operation can meet. -/
inductive Gate where
  /-- RESET and the four pure operations: none. -/
  | ungated
  /-- Bus operations: INITIALISED (R34). -/
  | bus
  /-- SEND, RECEIVE, SIGNAL_STRENGTH: INITIALISED, then CONFIGURED (R35). -/
  | link
  /-- STROBE: INITIALISED, then for a flush LINK_MODE = IDLE (R202). -/
  | strobe (c : Strobe)
  deriving DecidableEq, Repr

/-- The two flush strobes (R202). -/
def Strobe.isFlush : Strobe → Bool
  | .sftx | .sfrx => true
  | .sidle | .stx | .srx => false

/-- The first state fault that applies (R404 item 5). -/
def gateFault (g : Gate) (s : State) : Option Fault :=
  match g with
  | .ungated => none
  | .bus => if s.initialised then none else some .notInitialised
  | .link =>
    if !s.initialised then some .notInitialised
    else if s.configured then none else some .notConfigured
  | .strobe c =>
    if !s.initialised then some .notInitialised
    else if Strobe.isFlush c && s.linkMode != .idle then some .flushNotIdle
    else none

/-- The start of every admitted operation: POLLS and RETRIES are 0 (R42, log 20). -/
def clearCounters (s : State) : State := { s with polls := 0, retries := 0 }

/-- The start of an execution: BUSY <- 1 (R164 item 6). -/
def beginOp (s : State) : State := { clearCounters s with busy := true }

/-- The order of R404: FAULTED, F_BUSY, refusal, argument outcome, state faults, execution. -/
def admitOp (refused : Bool) (arg : Option ArgOutcome) (g : Gate) (s : State) (body : State → State) : State :=
  if s.faulted then s
  else if s.busy then modelFault .busy s
  else if refused then refuse s
  else match arg with
    | some a => raise a.outcome a.phase a.sub (clearCounters s)
    | none =>
      match gateFault g s with
      | some f => modelFault f s
      | none => body (beginOp s)

/-- A byte sequence that spells no operation (R403): it is refused, in the order of R404. -/
def rejectHost (s : State) : State := admitOp true none .ungated s id

/-- A bus command: nothing happens while FAULTED (R51); a frame the block never sends is not admitted (R135,
R403); a transaction during the settle wait is F_SETTLE (R210); one before a successful RESET is
F_NOT_INITIALISED, unless it is RESET's own (R34). BUSY is the issuing operation's and is not asked (log 13). -/
def admitBus (admissible needsInit : Bool) (s : State) (body : State → State) : State :=
  if s.faulted then s
  else if !admissible then refuse s
  else if s.phase = .rstSettle then modelFault .settle s
  else if needsInit && !s.initialised then modelFault .notInitialised s
  else body s

/-- A frame that spells no bus command. -/
def rejectBus (s : State) : State := admitBus false true s id

/-! ### Phase, transaction, strobe -/

/-- `reg.PHASE <- P`. -/
def atPhase (p : Phase) (s : State) : State := { s with phase := p }

/-- What a transaction puts on the trace (R160). -/
def transactionEvents (mosi miso : List Byte) : List Event :=
  Event.csLow :: List.zipWith Event.xchg mosi miso ++ [Event.csHigh]

/-- `Xfer(mosi)` up to its length check (R160): the bytes the bus moved, and the state with CS released. -/
def xfer (mosi : List Byte) (s : State) : List Byte × State :=
  let r := s.busAnswer mosi
  (r.1, { s with cs := true, env := r.2, trace := s.trace ++ transactionEvents mosi r.1 })

/-- `Xfer(mosi)` with what a short transfer leads to. -/
def xferOr (mosi : List Byte) (s : State) (onShort : State → State) (k : List Byte → State → State) : State :=
  let r := xfer mosi s
  if r.1.length < mosi.length then onShort r.2 else k r.1 r.2

/-- BusFault at the phase of the transaction (R162). -/
def busFault (s : State) : State := raise .busFault s.phase .none s

/-- `Xfer(mosi)` in the current phase (R160). -/
def xferThen (mosi : List Byte) (s : State) (k : List Byte → State → State) : State :=
  xferOr mosi s busFault k

/-- `reg.PHASE <- P; Xfer(mosi)`. -/
def xferAt (p : Phase) (mosi : List Byte) (s : State) (k : List Byte → State → State) : State :=
  xferThen mosi (atPhase p s) k

/-- LINK_MODE after a completed strobe (R200). -/
def Strobe.modeAfter (c : Strobe) (m : LinkMode) : LinkMode :=
  match c with
  | .sidle => .idle
  | .stx => .tx
  | .srx => .rx
  | .sftx | .sfrx => m

/-- The LINK_MODE write of a completed strobe (R200). -/
def recordStrobe (c : Strobe) (s : State) : State := { s with linkMode := Strobe.modeAfter c s.linkMode }

/-- `Strobe(code)` in the current phase (R200). -/
def strobeThen (c : Strobe) (s : State) (k : State → State) : State :=
  xferThen (frameStrobe (c.code s.params)) s fun _ s => k (recordStrobe c s)

/-- `reg.PHASE <- P; Strobe(code)`. -/
def strobeAt (p : Phase) (c : Strobe) (s : State) (k : State → State) : State :=
  strobeThen c (atPhase p s) k

/-- `CsPulse()` (R161). -/
def csPulse (s : State) : State := { s with cs := true, trace := s.trace ++ [.csLow, .csHigh] }

/-- `WaitSettle()` (R11, R209): the wait completes under weak fairness and has no duration (log 16). -/
def waitSettle (s : State) : State := { s with env := s.env.settled, trace := s.trace ++ [.settle] }

/-! ### The completion line -/

/-- `SampleLine()` (R98). -/
def sampleLine (s : State) : Bool × State :=
  let r := s.lineAnswer
  (r.1, { s with env := r.2, trace := s.trace ++ [.sample r.1] })

/-- `reg.POLLS <- n` (R42). -/
def setPolls (n : Nat) (s : State) : State := { s with polls := n }

/-- `reg.RETRIES <- n` (R42). -/
def setRetries (n : Nat) (s : State) : State := { s with retries := n }

/-- The loop of PollUntil with `left` samples left: whether the level was met. -/
def pollLoop (level : Bool) : Nat → State → Bool × State
  | 0, s => (false, s)
  | left + 1, s =>
    let r := sampleLine s
    let s := setPolls (r.2.polls + 1) r.2
    if r.1 = level then (true, s) else pollLoop level left s

/-- `PollUntil(level, budget)` (R271): true is MET, false is TIMEOUT. -/
def pollUntil (level : Bool) (budget : Nat) (s : State) : Bool × State :=
  pollLoop level budget (setPolls 0 s)

/-- `reg.PHASE <- P; if PollUntil(level, budget) = TIMEOUT: ...`. -/
def pollAt (p : Phase) (level : Bool) (budget : Nat) (s : State) (onTimeout k : State → State) : State :=
  match pollUntil level budget (atPhase p s) with
  | (true, s) => k s
  | (false, s) => onTimeout s

/-! ### Registers -/

/-- `reg.BUSY <- 1`. -/
def setBusy (s : State) : State := { s with busy := true }

/-- `reg.CONFIGURED <- 0` (R371). -/
def clearConfigured (s : State) : State := { s with configured := false }

/-- INITIALISED <- 0, CONFIGURED <- 0: a faulted SRES (R209). -/
def clearInitialised (s : State) : State := { s with initialised := false, configured := false }

/-- LINK_MODE <- IDLE, INITIALISED <- 1, CONFIGURED <- 0: a completed RESET (R209). -/
def markReset (s : State) : State := { s with linkMode := .idle, initialised := true, configured := false }

/-- The data bytes a BUS read command returned (log 13). -/
def storeBusData (d : List Byte) (s : State) : State := { s with busData := d }

/-- The host bytes that stay after an operation has been taken (log 2). -/
def leaveHost (rest : List Byte) (s : State) : State := { s with hostIn := rest }

/-- The frames that stay after one has been taken (log 1). -/
def leaveFrames (later : List (List Byte)) (s : State) : State := { s with busIn := later }

/-- TX_FRAME and TX_FRAME_LEN <- a frame (R41, R243); bytes past its end stay. -/
def storeFrame (f : List Byte) (s : State) : State :=
  { s with txFrame := f ++ s.txFrame.drop f.length, txFrameLen := f.length }

/-- RD_DATA <- the bytes read (R46). -/
def storeRead (d : List Byte) (s : State) : State :=
  { s with rdData := d, written := { s.written with rdData := true } }

/-- The frame in TX_FRAME: what may be read of it (R41, R402). -/
def State.txFrameBytes (s : State) : List Byte := s.txFrame.take s.txFrameLen

/-- A read of LOCAL_ADDR by a rule or a claim: none is F_UNWRITTEN (R32, R402). -/
def State.readLocalAddr (s : State) : Option Byte := if s.written.localAddr then some s.localAddr else none
/-- A read of RX_LEN (R40, R402). -/
def State.readRxLen (s : State) : Option Byte := if s.written.rx then some s.rxLen else none
/-- A read of RX_ADDR (R40, R402). -/
def State.readRxAddr (s : State) : Option Byte := if s.written.rx then some s.rxAddr else none
/-- A read of RX_BUF (R40, R402). -/
def State.readRxBuf (s : State) : Option (List Byte) := if s.written.rx then some s.rxBuf else none
/-- A read of RX_RSSI_RAW (R40, R402). -/
def State.readRxRssiRaw (s : State) : Option Byte := if s.written.rx then some s.rxRssiRaw else none
/-- A read of RX_STATUS2 (R40, R402). -/
def State.readRxStatus2 (s : State) : Option Byte := if s.written.rx then some s.rxStatus2 else none
/-- A read of LQ_RAW (R43, R402). -/
def State.readLqRaw (s : State) : Option Byte := if s.written.lqRaw then some s.lqRaw else none
/-- A read of LQ_DBM (R43, R402). -/
def State.readLqDbm (s : State) : Option Int := if s.written.lqDbm then some s.lqDbm else none
/-- A read of LQ_CLASS (R43, R402). -/
def State.readLqClass (s : State) : Option LqClass := if s.written.lqClass then some s.lqClass else none
/-- A read of RD_DATA (R46, R402). -/
def State.readRdData (s : State) : Option (List Byte) := if s.written.rdData then some s.rdData else none
/-- A read of PF_LEN (R46, R402). -/
def State.readPfLen (s : State) : Option Byte := if s.written.pf then some s.pfLen else none
/-- A read of PF_ADDR (R46, R402). -/
def State.readPfAddr (s : State) : Option Byte := if s.written.pf then some s.pfAddr else none
/-- A read of PF_PAYLOAD (R46, R402). -/
def State.readPfPayload (s : State) : Option (List Byte) := if s.written.pf then some s.pfPayload else none
/-- A read of TX_FRAME[i] (R41, R402). -/
def State.readTxFrame (s : State) (i : Nat) : Option Byte := s.txFrameBytes[i]?

end Sys2Proof.Machine
end

