-- ==== Sys2Proof/Machine/Strobes.lean ====
section
/-! DEFINITION. STROBE and RESET (41_strobes.md). -/

namespace Sys2Proof.Machine

/-- The strobe transaction and its OK (R203). -/
def strobeBody (c : Strobe) (s : State) : State :=
  strobeAt .strobe c s fun s => raise .ok .strobe .none s

/-- STROBE code, dispatching SIDLE, SFTX, SFRX, STX or SRX (R203 to R208); SRES and every other byte is
refused (R203, D10). -/
def execStrobe (code : Byte) (s : State) : Host.Outcome State Fault Refusal :=
  .next (match Strobe.ofCode s.params code with
    | some c => admitOp false none (.strobe c) s (strobeBody c)
    | none => admitOp true none .ungated s id)

/-- RESET's SRES transaction: a short one clears INITIALISED and CONFIGURED and ends in BUS_FAULT (R209). -/
def sresThen (s : State) (k : State → State) : State :=
  xferOr (frameStrobe s.params.codeSres) (atPhase .rstSres s)
    (fun s => raise .busFault .rstSres .none (clearInitialised s))
    fun _ s => k s

/-- RESET's end: the settle wait, LINK_MODE <- IDLE, INITIALISED <- 1, CONFIGURED <- 0, OK (R209). -/
def settleBody (s : State) : State :=
  raise .ok .rstSettle .none (markReset (waitSettle (atPhase .rstSettle s)))

/-- RESET's execution (R209). -/
def resetBody (s : State) : State := sresThen (csPulse (atPhase .rstPulse s)) settleBody

/-- RESET, admitted in every state that is neither FAULTED nor BUSY (R209). -/
def execReset (s : State) : Host.Outcome State Fault Refusal :=
  .next (admitOp false none .ungated s resetBody)

end Sys2Proof.Machine
end

