-- ==== Sys2Proof/Machine/BusCommands.lean ====
section
/-! DEFINITION. The sixteen bus commands of the opcode table: each is one transaction of the sequencer, at the
phase it stands in (R5, R125, R160, R200; log 1, 12, 13). A short transfer ends the operation in BUS_FAULT as
R162 says; a completed one leaves PHASE, BUSY, OUTCOME and DETAIL to the operation that issued it. -/

namespace Sys2Proof.Machine

/-- A write transaction (R160). -/
def busWrite (admissible : Bool) (frame : List Byte) (s : State) : State :=
  admitBus admissible true s fun s => xferThen frame s fun _ s => s

/-- A read transaction; what Xfer returns after MISO byte 0 is kept for a claim to name (R160, log 13). -/
def busRead (admissible : Bool) (frame : List Byte) (s : State) : State :=
  admitBus admissible true s fun s => xferThen frame s fun miso s => storeBusData (miso.drop 1) s

/-- A transport strobe (R200). The flush fault of R202 is the host form's only (R205, R206). -/
def busStrobe (c : Strobe) (s : State) : State :=
  admitBus true true s fun s => strobeThen c s fun s => s

/-- The lengths and addresses of a burst the block sends (R81, R135). -/
def busBurstOk (p : Params) (a : Addr) (n : Nat) : Bool := !burstLengthBad p n && burstAddrOk p a n

/-- BUS.WRITE_SINGLE (R165). -/
def execBusWriteSingle (a : Addr) (v : Byte) (s : State) : Host.Outcome State Fault Refusal :=
  .next (busWrite (isConfigAddr s.params a) (frameWriteSingle a v) s)

/-- BUS.WRITE_BURST (R166). -/
def execBusWriteBurst (a : Addr) (d : List Byte) (s : State) : Host.Outcome State Fault Refusal :=
  .next (busWrite (busBurstOk s.params a d.length) (frameWriteBurst a d) s)

/-- BUS.READ_SINGLE (R167). -/
def execBusReadSingle (a : Addr) (s : State) : Host.Outcome State Fault Refusal :=
  .next (busRead (isConfigAddr s.params a) (frameReadSingle s.params a) s)

/-- BUS.READ_STATUS (R168). -/
def execBusReadStatus (a : Addr) (s : State) : Host.Outcome State Fault Refusal :=
  .next (busRead (isStatusRegister s.params a) (frameReadStatus s.params a) s)

/-- BUS.READ_BURST (R169). -/
def execBusReadBurst (a : Addr) (n : Nat) (s : State) : Host.Outcome State Fault Refusal :=
  .next (busRead (busBurstOk s.params a n) (frameReadBurst s.params a n) s)

/-- BUS.FIFO_WRITE (R129, R166). -/
def execBusFifoWrite (d : List Byte) (s : State) : Host.Outcome State Fault Refusal :=
  .next (busWrite (busBurstOk s.params s.params.addrFifo d.length) (frameWriteBurst s.params.addrFifo d) s)

/-- BUS.FIFO_READ (R129, R169). -/
def execBusFifoRead (n : Nat) (s : State) : Host.Outcome State Fault Refusal :=
  .next (busRead (busBurstOk s.params s.params.addrFifo n) (frameReadBurst s.params s.params.addrFifo n) s)

/-- BUS.READ_RSSI (R130, R342). -/
def execBusReadRssi (s : State) : Host.Outcome State Fault Refusal :=
  .next (busRead true (frameReadStatus s.params s.params.addrRssi) s)

/-- BUS.READ_MARCSTATE (R130, R278). -/
def execBusReadMarcstate (s : State) : Host.Outcome State Fault Refusal :=
  .next (busRead true (frameReadStatus s.params s.params.addrMarcstate) s)

/-- BUS.READ_RXBYTES (R130, R276). -/
def execBusReadRxbytes (s : State) : Host.Outcome State Fault Refusal :=
  .next (busRead true (frameReadStatus s.params s.params.addrRxbytes) s)

/-- BUS.SRES: RESET's SRES transaction (R209). Only RESET issues it, so RESET is in progress (BUSY) from it on,
and a completed one puts the sequencer in the settle wait (R210, log 12). -/
def execBusSres (s : State) : Host.Outcome State Fault Refusal :=
  .next (admitBus true false s fun s => sresThen (setBusy s) (atPhase .rstSettle))

/-- BUS.SRX (R208). -/
def execBusSrx (s : State) : Host.Outcome State Fault Refusal := .next (busStrobe .srx s)

/-- BUS.STX (R207). -/
def execBusStx (s : State) : Host.Outcome State Fault Refusal := .next (busStrobe .stx s)

/-- BUS.SIDLE (R204). -/
def execBusSidle (s : State) : Host.Outcome State Fault Refusal := .next (busStrobe .sidle s)

/-- BUS.SFRX (R206). -/
def execBusSfrx (s : State) : Host.Outcome State Fault Refusal := .next (busStrobe .sfrx s)

/-- BUS.SFTX (R205). -/
def execBusSftx (s : State) : Host.Outcome State Fault Refusal := .next (busStrobe .sftx s)

end Sys2Proof.Machine
end

