-- ==== Sys2Proof/Machine/Configuration.lean ====
section
/-! DEFINITION. CONFIGURE (45_configuration.md). -/

namespace Sys2Proof.Machine

/-- The image's writes from pair i on, each at its own phase CFG_WRITE(i) (R371). -/
def configWrites : Nat → List (Addr × Byte) → State → (State → State) → State
  | _, [], s, k => k s
  | i, (a, v) :: image, s, k =>
    xferAt (.cfgWrite i) (frameWriteSingle a v) s fun _ s => configWrites (i + 1) image s k

/-- LOCAL_ADDR <- local_addr, CONFIGURED <- 1 (R371). -/
def setLocalAddr (a : Byte) (s : State) : State :=
  { s with localAddr := a, configured := true, written := { s.written with localAddr := true } }

/-- CONFIGURE's execution: CONFIGURED is 0 until every write is done (R371). -/
def configureBody (localAddr : Byte) (image : List (Addr × Byte)) (s : State) : State :=
  configWrites 0 image (clearConfigured s) fun s =>
  raise .ok s.phase .none (setLocalAddr localAddr s)

/-- CONFIGURE local_addr, image (R371). -/
def execConfigure (localAddr : Byte) (image : List (Addr × Byte)) (s : State) : Host.Outcome State Fault Refusal :=
  .next (admitOp (!imageOk s.params image) none .bus s (configureBody localAddr image))

end Sys2Proof.Machine
end

