-- ==== Sys2Proof/Machine/Framing.lean ====
section
/-! DEFINITION. BUILD_FRAME and PARSE_FRAME (42_framing.md). -/

namespace Sys2Proof.Machine

/-- The argument outcome of a payload too large for MAX_FRAME (R243, R248). -/
def sizeArg (maxFrame : Nat) (p : List Byte) : Option ArgOutcome :=
  if payloadTooLarge maxFrame p then some ⟨.payloadTooLarge, .sCheck, .none⟩ else none

/-- BUILD_FRAME dest, p (R243). -/
def execBuildFrame (dest : Byte) (p : List Byte) (s : State) : Host.Outcome State Fault Refusal :=
  .next (admitOp false (sizeArg s.params.maxFrame p) .ungated s fun s =>
    raise .ok .none .none (storeFrame (frameOf dest p) s))

/-- PARSE_FRAME's argument outcomes, NO_DATA before MALFORMED (R244, R404). -/
def parseArg (r : List Byte) : Option ArgOutcome :=
  if r.length = 0 then some ⟨.noData, .none, .none⟩
  else if frameMalformed r then some ⟨.malformed, .none, .malformedFrame⟩
  else none

/-- PF_LEN, PF_ADDR, PF_PAYLOAD <- the decoded frame (R244). -/
def storeParsed (r : List Byte) (s : State) : State :=
  { s with
    pfLen := byteAt r 0, pfAddr := byteAt r 1, pfPayload := payloadOf r (byteAt r 0).toNat
    written := { s.written with pf := true } }

/-- PARSE_FRAME r (R244); the CRC status is never consulted (R246). -/
def execParseFrame (r : List Byte) (s : State) : Host.Outcome State Fault Refusal :=
  .next (admitOp false (parseArg r) .ungated s fun s => raise .ok .none .none (storeParsed r s))

end Sys2Proof.Machine
end

