-- ==== Sys2Proof/Machine/Link.lean ====
section
/-! DEFINITION. SEND and RECEIVE (43_link.md). -/

namespace Sys2Proof.Machine

/-! ### SEND -/

/-- TxRecover(at): SIDLE, SFTX, TX_TIMEOUT (R273). -/
def txRecover (waiting : Phase) (s : State) : State :=
  strobeAt .sToIdle .sidle s fun s =>
  strobeAt .sToFlush .sftx s fun s =>
  raise .txTimeout waiting .none s

/-- SEND's end: with RX_AFTER_TX the RX FIFO is flushed and RX entered (R272, R274). -/
def sendFinish (s : State) : State :=
  if s.params.rxAfterTx then
    strobeAt .sRxFlush .sfrx s fun s =>
    strobeAt .sRxEnter .srx s fun s =>
    raise .ok s.phase .none s
  else raise .ok s.phase .none s

/-- SEND's execution (R272). -/
def sendBody (dest : Byte) (p : List Byte) (s : State) : State :=
  strobeAt .sIdle1 .sidle (storeFrame (frameOf dest p) s) fun s =>
  strobeAt .sFlush1 .sftx s fun s =>
  xferAt .sLoad (frameWriteBurst s.params.addrFifo (frameOf dest p)) s fun _ s =>
  strobeAt .sStx .stx s fun s =>
  pollAt .sWaitStart true s.params.txStartPolls s (txRecover .sWaitStart) fun s =>
  pollAt .sWaitEnd false s.params.txEndPolls s (txRecover .sWaitEnd) fun s =>
  strobeAt .sIdle2 .sidle s fun s =>
  strobeAt .sFlush2 .sftx s sendFinish

/-- SEND dest, p: the size check precedes the state faults (R248, R272, R404). -/
def execSend (dest : Byte) (p : List Byte) (s : State) : Host.Outcome State Fault Refusal :=
  .next (admitOp false (sizeArg s.params.maxFrame p) .link s (sendBody dest p))

/-! ### RECEIVE -/

/-- The RX_BUF bytes drawn at the n-th RECEIVE entry (R40): free values (log 9). -/
def drawnBuf (len n : Nat) : List Byte := (List.range len).map fun i => Config.rxDraw n (4 + i)

/-- RX_* <- draw (R40, R275, D26): free values (log 9). -/
def drawReceive (s : State) : State :=
  { s with
    rxLen := Config.rxDraw s.rxDraws 0
    rxAddr := Config.rxDraw s.rxDraws 1
    rxRssiRaw := Config.rxDraw s.rxDraws 2
    rxStatus2 := Config.rxDraw s.rxDraws 3
    rxBuf := drawnBuf s.params.rxBufLen s.rxDraws
    rxDraws := s.rxDraws + 1
    written := { s.written with rx := true } }

/-- SIDLE, SFRX, SRX at three phases: entering RX with an empty FIFO (R278, R287, R292). -/
def enterRx (p1 p2 p3 : Phase) (s : State) (k : State → State) : State :=
  strobeAt p1 .sidle s fun s =>
  strobeAt p2 .sfrx s fun s =>
  strobeAt p3 .srx s k

/-- Resume() (R287). -/
def resumeRx (s : State) (k : State → State) : State := enterRx .rResIdle .rResFlush .rResSrx s k

/-- Overflow(sub) (R278). -/
def overflow (sub : SubReason) (s : State) : State :=
  enterRx .rOvfIdle .rOvfFlush .rOvfSrx s fun s => raise .rxFifoOverflow .rState sub s

/-- RX_BUF <- zeros (R283). -/
def zeroRxBuf (s : State) : State := { s with rxBuf := List.replicate s.params.rxBufLen 0#8 }

/-- CrcDiscard(sub) (R283). -/
def crcDiscard (sub : SubReason) (s : State) : State :=
  resumeRx (zeroRxBuf s) fun s => raise .crcError .rCrc sub s

/-- The delivery's register writes (R286): RX_BUF past the payload keeps the draw of RECEIVE's entry. -/
def deliver (r : List Byte) (s : State) : State :=
  let len := (byteAt r 0).toNat
  let p := payloadOf r len
  { s with
    rxLen := byteAt r 0
    rxAddr := byteAt r 1
    rxBuf := p ++ s.rxBuf.drop p.length
    rxRssiRaw := byteAt r (len + 1)
    rxStatus2 := byteAt r (len + 2) }

/-- One RXBYTES or MARCSTATE read: the data byte of an FRS transaction (R276, R278). -/
def readStatusAt (p : Phase) (a : Addr) (s : State) (k : Byte → State → State) : State :=
  xferAt p (frameReadStatus s.params a) s fun miso s => k (byteAt miso 1) s

/-- StableCount's loop with `left` extra reads left (R276). -/
def countLoop : Nat → Byte → Byte → State → (Byte → State → State) → State
  | 0, c1, c2, s, k => if c1 = c2 then k c2 s else raise .rxTimeout s.phase .countUnstable s
  | left + 1, c1, c2, s, k =>
    if c1 = c2 then k c2 s
    else readStatusAt (.rCountRetry s.retries) s.params.addrRxbytes s fun c3 s =>
      countLoop left c2 c3 (setRetries (s.retries + 1) s) k

/-- StableCount() (R276). -/
def stableCount (s : State) (k : Byte → State → State) : State :=
  readStatusAt .rCount1 s.params.addrRxbytes s fun c1 s =>
  readStatusAt .rCount2 s.params.addrRxbytes s fun c2 s =>
  countLoop s.params.countAgreeRetries c1 c2 (setRetries 0 s) k

/-- From the image on: the CRC check, the address check, the delivery (R281 to R287). Comparing the address
reads LOCAL_ADDR, so an unwritten one is F_UNWRITTEN there (R32, R402, log 15). The delivery is committed when the
Resume it goes with is complete, so that a BUS_FAULT in that Resume leaves RX_* the draws of R40 and D26 (log 14);
CrcDiscard zeroes RX_BUF before its Resume, and a BUS_FAULT there keeps the zeros (R288). -/
def receiveImage (r : List Byte) (count : Nat) (s : State) : State :=
  let s := atPhase .rCrc s
  if imageMalformed r count then crcDiscard .malformedFrame s
  else if !crcOk s.params (byteAt r ((byteAt r 0).toNat + 2)) then crcDiscard .none s
  else
    let s := atPhase .rAddr s
    match s.readLocalAddr with
    | none => modelFault .unwritten s
    | some la =>
      if addrMatch la (byteAt r 1) then
        resumeRx (atPhase .rDeliver s) fun s => raise .ok .rDeliver .none (deliver r s)
      else resumeRx s fun s => raise .addressMismatch .rAddr .none s

/-- From the agreed count on (R277 to R280). -/
def receiveCounted (count : Nat) (s : State) : State :=
  if count = 0 then raise .noData s.phase .none s
  else
    readStatusAt .rState s.params.addrMarcstate s fun m s =>
    if overflowIndicated s.params m then overflow .none s
    else if s.params.rxBufLen < count then overflow .countOverBuffer s
    else
      xferAt .rBurst (frameReadBurst s.params s.params.addrFifo count) s fun miso s =>
      receiveImage (miso.drop 1) count s

/-- RECEIVE's execution (R275). -/
def receiveBody (s : State) : State :=
  enterRx .rIdle .rFlush .rSrx (drawReceive s) fun s =>
  pollAt .rWait true s.params.rxPolls s (fun s => raise .rxTimeout .rWait .none s) fun s =>
  stableCount s fun c s =>
  receiveCounted (rxCount s.params c) s

/-- RECEIVE (R275). -/
def execReceive (s : State) : Host.Outcome State Fault Refusal :=
  .next (admitOp false none .link s receiveBody)

end Sys2Proof.Machine
end

