-- ==== Sys2Proof/Machine/LinkQuality.lean ====
section
/-! DEFINITION. SIGNAL_STRENGTH, RSSI_DECODE, CLASSIFY (44_link_quality.md). -/

namespace Sys2Proof.Machine

/-- LQ_DBM <- d (R43). -/
def storeDbm (d : Int) (s : State) : State := { s with lqDbm := d, written := { s.written with lqDbm := true } }

/-- LQ_CLASS <- c (R43). -/
def storeClass (c : LqClass) (s : State) : State :=
  { s with lqClass := c, written := { s.written with lqClass := true } }

/-- LQ_RAW <- v (R43). -/
def storeRaw (v : Byte) (s : State) : State := { s with lqRaw := v, written := { s.written with lqRaw := true } }

/-- SIGNAL_STRENGTH's execution (R342); a short read leaves LQ_* (D42). -/
def signalBody (s : State) : State :=
  xferAt .qRead (frameReadStatus s.params s.params.addrRssi) s fun miso s =>
  raise .ok .qRead .none
    (storeClass (classOf s.params (rssiDbm s.params (byteAt miso 1)))
      (storeDbm (rssiDbm s.params (byteAt miso 1)) (storeRaw (byteAt miso 1) s)))

/-- SIGNAL_STRENGTH (R342). -/
def execSignalStrength (s : State) : Host.Outcome State Fault Refusal :=
  .next (admitOp false none .link s signalBody)

/-- RSSI_DECODE v (R340). -/
def execRssiDecode (v : Byte) (s : State) : Host.Outcome State Fault Refusal :=
  .next (admitOp false none .ungated s fun s => raise .ok .none .none (storeDbm (rssiDbm s.params v) s))

/-- CLASSIFY d (R341). -/
def execClassify (d : BitVec 16) (s : State) : Host.Outcome State Fault Refusal :=
  .next (admitOp false none .ungated s fun s => raise .ok .none .none (storeClass (classOf s.params d.toInt) s))

end Sys2Proof.Machine
end

