-- ==== Sys2Proof/Machine/RegisterAccess.lean ====
section
/-! DEFINITION. WREG, WBURST, RREG, RSTATUS, RBURST (40_register_access.md). -/

namespace Sys2Proof.Machine

/-- The argument outcome of a malformed burst length (R163). -/
def burstArg (p : Params) (n : Nat) : Option ArgOutcome :=
  if burstLengthBad p n then some ⟨.busFault, .xfer, .malformedLength⟩ else none

/-- A write transaction and its OK (R165, R166). -/
def writeBody (frame : List Byte) (s : State) : State :=
  xferAt .xfer frame s fun _ s => raise .ok .xfer .none s

/-- A read transaction, RD_DATA <- its data bytes, and its OK (R167, R168, R169). -/
def readBody (frame : List Byte) (s : State) : State :=
  xferAt .xfer frame s fun miso s => raise .ok .xfer .none (storeRead (miso.drop 1) s)

/-- WREG a, v (R165). -/
def execWreg (a : Addr) (v : Byte) (s : State) : Host.Outcome State Fault Refusal :=
  .next (admitOp (!isConfigAddr s.params a) none .bus s (writeBody (frameWriteSingle a v)))

/-- WBURST a, d (R166). -/
def execWburst (a : Addr) (d : List Byte) (s : State) : Host.Outcome State Fault Refusal :=
  .next (admitOp (!burstAddrOk s.params a d.length) (burstArg s.params d.length) .bus s (writeBody (frameWriteBurst a d)))

/-- RREG a (R167). -/
def execRreg (a : Addr) (s : State) : Host.Outcome State Fault Refusal :=
  .next (admitOp (!isConfigAddr s.params a) none .bus s (readBody (frameReadSingle s.params a)))

/-- RSTATUS a (R168). -/
def execRstatus (a : Addr) (s : State) : Host.Outcome State Fault Refusal :=
  .next (admitOp (!isStatusRegister s.params a) none .bus s (readBody (frameReadStatus s.params a)))

/-- RBURST a, n (R169). -/
def execRburst (a : Addr) (n : Byte) (s : State) : Host.Outcome State Fault Refusal :=
  .next (admitOp (!burstAddrOk s.params a n.toNat) (burstArg s.params n.toNat) .bus s (readBody (frameReadBurst s.params a n.toNat)))

end Sys2Proof.Machine
end

