-- ==== Sys2Proof/Machine/Dispatch.lean ====
section
/-! DEFINITION. The meaning of each instruction, one arm per constructor of Instr. -/

namespace Sys2Proof.Machine

def exec (i : Instr) (s : State) : Host.Outcome State Fault Refusal :=
  match i with
  | .busWriteSingle a v => Sys2Proof.Machine.execBusWriteSingle a v s
  | .busWriteBurst a d => Sys2Proof.Machine.execBusWriteBurst a d s
  | .busReadSingle a => Sys2Proof.Machine.execBusReadSingle a s
  | .busReadStatus a => Sys2Proof.Machine.execBusReadStatus a s
  | .busReadBurst a n => Sys2Proof.Machine.execBusReadBurst a n s
  | .busFifoWrite d => Sys2Proof.Machine.execBusFifoWrite d s
  | .busFifoRead n => Sys2Proof.Machine.execBusFifoRead n s
  | .busReadRssi => Sys2Proof.Machine.execBusReadRssi s
  | .busReadMarcstate => Sys2Proof.Machine.execBusReadMarcstate s
  | .busReadRxbytes => Sys2Proof.Machine.execBusReadRxbytes s
  | .busSres => Sys2Proof.Machine.execBusSres s
  | .busSrx => Sys2Proof.Machine.execBusSrx s
  | .busStx => Sys2Proof.Machine.execBusStx s
  | .busSidle => Sys2Proof.Machine.execBusSidle s
  | .busSfrx => Sys2Proof.Machine.execBusSfrx s
  | .busSftx => Sys2Proof.Machine.execBusSftx s
  | .wreg a v => Sys2Proof.Machine.execWreg a v s
  | .wburst a d => Sys2Proof.Machine.execWburst a d s
  | .rreg a => Sys2Proof.Machine.execRreg a s
  | .rstatus a => Sys2Proof.Machine.execRstatus a s
  | .rburst a n => Sys2Proof.Machine.execRburst a n s
  | .strobe code => Sys2Proof.Machine.execStrobe code s
  | .reset => Sys2Proof.Machine.execReset s
  | .configure localAddr image => Sys2Proof.Machine.execConfigure localAddr image s
  | .buildFrame dest p => Sys2Proof.Machine.execBuildFrame dest p s
  | .parseFrame r => Sys2Proof.Machine.execParseFrame r s
  | .send dest p => Sys2Proof.Machine.execSend dest p s
  | .receive => Sys2Proof.Machine.execReceive s
  | .signalStrength => Sys2Proof.Machine.execSignalStrength s
  | .rssiDecode v => Sys2Proof.Machine.execRssiDecode v s
  | .classify d => Sys2Proof.Machine.execClassify d s

end Sys2Proof.Machine
end

