-- ==== Sys2Proof/Machine/Fetch.lean ====
section
/-! DEFINITION. Where the next instruction comes from, and what the machine does when none is there (R5, R6,
R12; log 1, 2, 12, 18, 19). -/

namespace Sys2Proof.Machine

/-- One frame from the bus port, the rest of the queue staying in s. -/
def stepFrame (frame : List Byte) (s : State) : Host.Outcome State Fault Refusal :=
  match decodeBus s.params frame with
  | .instr i => exec i s
  | .rejected _ => .next (rejectBus s)

/-- One operation from the host's bytes, which leave `hostIn` whether or not it is admitted (log 2). -/
def stepHost (s : State) : Host.Outcome State Fault Refusal :=
  match decodeHost s.hostIn with
  | .instr i rest => exec i (leaveHost rest s)
  | .rejected _ rest => .next (rejectHost (leaveHost rest s))

/-- Nothing has been issued: time ends a settle wait that is under way (R6 (4)), and otherwise nothing happens. -/
def stepIdle (s : State) : Host.Outcome State Fault Refusal :=
  .next (if !s.faulted && s.phase = .rstSettle then settleBody s else s)

/-- A bus frame first, then a host operation, then time (log 19). -/
def nextStep (s : State) : Host.Outcome State Fault Refusal :=
  match s.busIn with
  | frame :: later => stepFrame frame (leaveFrames later s)
  | [] =>
    match s.hostIn with
    | _ :: _ => stepHost s
    | [] => stepIdle s

/-- The bytes of the first operation of a host sequence, the bytes after it dropped. -/
def firstOperation (bs : List Byte) : List Byte :=
  match decodeHost bs with
  | .instr _ rest => bs.take (bs.length - rest.length)
  | .rejected _ _ => bs

/-- The instruction a table word spells, placed where it is fetched: a host operation in `hostIn`, a bus
command in `busIn`, the other port empty (log 17, 18). -/
def placeWord (s : State) (nbits w : Nat) : State :=
  match decodeHost (hostWordBytes (wordBytes (nbits / 8) w)) with
  | .instr _ _ => { s with hostIn := firstOperation (hostWordBytes (wordBytes (nbits / 8) w)), busIn := [] }
  | .rejected _ _ => { s with hostIn := [], busIn := [busWordFrame s.params (wordBytes (nbits / 8) w)] }

end Sys2Proof.Machine
end

