-- ==== Sys2Proof/Machine/Step.lean ====
section
/-! DEFINITION. One step of the machine, and where a table word is placed for the next one. -/

namespace Sys2Proof.Machine

/-- One step: one bus frame, one host operation, or what time does (R5). -/
def step (s : State) : Host.Outcome State Fault Refusal := nextStep s

/-- s with the instruction a table word spells as the next one to be fetched. -/
def State.withFetchWord (s : State) (nbits w : Nat) : State := placeWord s nbits w

end Sys2Proof.Machine
end

