-- ==== Sys2Proof/Safety.lean ====
section
/-! DEFINITION. The terms claims use: when an operation executes, what an operation may write, the invariant of
the block, and the shape of the bus trace. -/

namespace Sys2Proof.Machine

/-! ### When an operation executes (R164, R404) -/

/-- Neither FAULTED nor BUSY. -/
abbrev HostReady (s : State) : Prop := s.faulted = false ∧ s.busy = false

/-- Ready, after a successful RESET (R34). -/
abbrev BusReady (s : State) : Prop := HostReady s ∧ s.initialised = true

/-- Ready, after a successful CONFIGURE too (R35). -/
abbrev LinkReady (s : State) : Prop := BusReady s ∧ s.configured = true

/-- A bus command is performed: not FAULTED, not in the settle wait, after a successful RESET. -/
abbrev CommandReady (s : State) : Prop :=
  s.faulted = false ∧ s.phase ≠ .rstSettle ∧ s.initialised = true

/-- The address range 0x00..CONFIG_LAST (R81). -/
abbrev ConfigRange (p : Params) (a : Addr) : Prop := a.toNat ≤ p.configLast.toNat

/-- The address range STATUS_FIRST..STATUS_LAST (R81). -/
abbrev StatusRange (p : Params) (a : Addr) : Prop := p.statusFirst.toNat ≤ a.toNat ∧ a.toNat ≤ p.statusLast.toNat

/-- A burst address of R166 and R169 for n bytes. -/
abbrev BurstRange (p : Params) (a : Addr) (n : Nat) : Prop :=
  a = p.addrFifo ∨ (ConfigRange p a ∧ (1 ≤ n ∧ n ≤ p.fifoSize → a.toNat + n ≤ p.configLast.toNat + 1))

/-- The operation's bytes are admitted (R81, R203, R371, R403); a bus command's addresses and lengths are those the
block sends (log 13). -/
def Admitted (p : Params) : Instr → Prop
  | .wreg a _ => ConfigRange p a
  | .wburst a d => BurstRange p a d.length
  | .rreg a => ConfigRange p a
  | .rstatus a => StatusRange p a
  | .rburst a n => BurstRange p a n.toNat
  | .strobe code => code ∈ [p.codeSidle, p.codeSftx, p.codeSfrx, p.codeStx, p.codeSrx]
  | .configure _ image => ∀ x ∈ image, ConfigRange p x.1
  | .busWriteSingle a _ => ConfigRange p a
  | .busWriteBurst a d => (1 ≤ d.length ∧ d.length ≤ p.fifoSize) ∧ BurstRange p a d.length
  | .busReadSingle a => ConfigRange p a
  | .busReadStatus a => StatusRange p a
  | .busReadBurst a n => (1 ≤ n ∧ n ≤ p.fifoSize) ∧ BurstRange p a n
  | .busFifoWrite d => 1 ≤ d.length ∧ d.length ≤ p.fifoSize
  | .busFifoRead n => 1 ≤ n ∧ n ≤ p.fifoSize
  | .busReadRssi | .busReadMarcstate | .busReadRxbytes
  | .busSres | .busSrx | .busStx | .busSidle | .busSfrx | .busSftx
  | .reset | .buildFrame .. | .parseFrame .. | .send .. | .receive | .signalStrength
  | .rssiDecode .. | .classify .. => True

/-- The argument outcome an operation reports before it looks at the state (R404 item 4), if any. -/
def ArgumentsReported (s : State) : Instr → Prop
  | .wburst _ d => d.length = 0 ∨ s.params.fifoSize < d.length
  | .rburst _ n => n.toNat = 0 ∨ s.params.fifoSize < n.toNat
  | .buildFrame _ p => s.params.maxFrame < p.length + 2
  | .send _ p => s.params.maxFrame < p.length + 2
  | .parseFrame r => r.length < 2 ∨ (byteAt r 0).toNat = 0 ∨ r.length < (byteAt r 0).toNat + 1
  | _ => False

/-- The host operations that drive the bus, RESET apart (R34). -/
def DrivesBus : Instr → Prop
  | .wreg .. | .wburst .. | .rreg .. | .rstatus .. | .rburst .. | .strobe .. | .configure ..
  | .send .. | .receive | .signalStrength => True
  | _ => False

/-- The operations that need CONFIGURED (R35). -/
def NeedsConfiguration : Instr → Prop
  | .send .. | .receive | .signalStrength => True
  | _ => False

/-! ### Ends of operations -/

/-- What R405 says an outcome leaves. -/
abbrev Concludes (t : State) (o : OutcomeCode) (p : Phase) (sub : SubReason) : Prop :=
  t.outcome = o ∧ t.detail = ⟨p, sub⟩ ∧ t.phase = .none ∧ t.busy = false ∧ t.reply = .outcome ∧ t.cs = true

/-- The oracle's next answers are settled: the bus answers and the line samples, in order. -/
abbrev Settled (s : State) (answers : List (List Byte)) (lines : List Bool) : Prop :=
  s.env.source = .oracle ∧ s.env.busTape = answers ∧ s.env.lineTape = lines

/-- One transaction on the trace: cs_low, the bytes exchanged, cs_high (R160). -/
def transaction (mosi miso : List Byte) : List Event :=
  [Event.csLow] ++ (List.zip mosi miso).map (fun x => Event.xchg x.1 x.2) ++ [Event.csHigh]

/-- Completion-line samples on the trace. -/
def samples (levels : List Bool) : List Event := levels.map Event.sample

/-- One strobe's transaction. -/
abbrev strobed (code miso : Byte) : List Event := transaction [code] [miso]

/-- The frame that reads the status register a (R125, R130). -/
abbrev statusFrame (p : Params) (a : Addr) : List Byte := [0xC0 ||| a.setWidth 8, p.dummyByte]

/-- A read of the status register a, its data byte being v. -/
abbrev statusRead (p : Params) (a : Addr) (m v : Byte) : List Event := transaction (statusFrame p a) [m, v]

/-- The frame that loads the TX FIFO (R125, R129, R240, R272). -/
abbrev loadFrame (p : Params) (dest : Byte) (d : List Byte) : List Byte :=
  (0x40 ||| p.addrFifo.setWidth 8) :: BitVec.ofNat 8 (d.length + 1) :: dest :: d

/-- The frame that reads n bytes from the RX FIFO (R125, R129, R280). -/
abbrev burstReadFrame (p : Params) (n : Nat) : List Byte :=
  (0xC0 ||| p.addrFifo.setWidth 8) :: List.replicate n p.dummyByte

/-- SIDLE, SFRX, SRX, with their MISO bytes (R275, R278, R287). -/
abbrev rxEntered (p : Params) (m₁ m₂ m₃ : Byte) : List Event :=
  strobed p.codeSidle m₁ ++ strobed p.codeSfrx m₂ ++ strobed p.codeSrx m₃

/-! ### RECEIVE's reads and outputs -/

/-- The reads of RXBYTES that agree on the count byte c: the last two are c, no two consecutive ones before them agree,
and at most COUNT_AGREE_RETRIES follow the first two (R276). A read is its MISO byte 0 and its data byte. -/
def CountAgreed (p : Params) (reads : List (Byte × Byte)) (c : Byte) : Prop :=
  ∃ (earlier : List (Byte × Byte)) (y : Byte), reads = earlier ++ [(y, c)] ∧
    (earlier.map Prod.snd).IsChain (· ≠ ·) ∧ (earlier.map Prod.snd).getLast? = some c ∧
    earlier.length ≤ p.countAgreeRetries + 1

/-- The phase of the n-th read of RXBYTES (R276). -/
def countPhase (n : Nat) : Phase := if n = 1 then .rCount1 else if n = 2 then .rCount2 else .rCountRetry (n - 3)

/-- The bus answers of reads of a status register. -/
abbrev readAnswers (reads : List (Byte × Byte)) : List (List Byte) := reads.map fun r => [r.1, r.2]

/-- The events of reads of RXBYTES. -/
abbrev countReads (p : Params) (reads : List (Byte × Byte)) : List Event :=
  (reads.map fun r => statusRead p p.addrRxbytes r.1 r.2).flatten

/-- RX_LEN, RX_ADDR, RX_RSSI_RAW and RX_STATUS2 are the draws of the n-th RECEIVE entry (R40). -/
abbrev HeaderDrawn (n : Nat) (t : State) : Prop :=
  t.rxLen = Config.rxDraw n 0 ∧ t.rxAddr = Config.rxDraw n 1 ∧ t.rxRssiRaw = Config.rxDraw n 2 ∧
  t.rxStatus2 = Config.rxDraw n 3 ∧ t.written.rx = true

/-- All five receive outputs are the draws of the n-th RECEIVE entry: nothing has been delivered (R40, R285). -/
abbrev OutputsDrawn (n : Nat) (t : State) : Prop :=
  HeaderDrawn n t ∧ t.rxBuf = drawnBuf t.params.rxBufLen n

/-! ### The premise CHIP_CONFIG_OK (R372, D37, I29; log 25)

What a chip whose configuration gives the link what it needs answers, as far as the block can see it. -/

/-- CHIP_CONFIG_OK while a frame is sent, R372 (c): after `waits` samples the completion line asserts, the start of the
transmission, and after `lasts` more it deasserts, its end. -/
structure ChipConfigOk.Sending (waits lasts : Nat) (line later : List Bool) : Prop where
  startThenEnd : line = List.replicate waits false ++ true :: (List.replicate lasts true ++ false :: later)

/-- CHIP_CONFIG_OK for a received frame of length byte l, address byte a and the given payload: R372 (a) the frame
starts with its length byte, (b) two status bytes follow it, (c) the line asserts after `waits` samples, (d) the
CRC-OK bit says whether the chip's check passed. `later` bytes may stand behind the frame in the FIFO (I36). -/
structure ChipConfigOk.Receiving (p : Params) (l a : Byte) (payload : List Byte) (status₁ status₂ : Byte)
    (later : List Byte) (passed : Bool) (image : List Byte) (waits : Nat) (line laterLine : List Bool) : Prop where
  variableLength : l.toNat = payload.length + 1
  statusAppended : image = l :: a :: (payload ++ status₁ :: status₂ :: later)
  lineAsserts : line = List.replicate waits false ++ true :: laterLine
  crcEnabled : status₂.getLsbD p.crcOkBit = passed

/-! ### Where a link operation stands -/

/-- The frame SEND or RECEIVE sends at a phase; the burst read is of `count` bytes (R272 to R275, R276, R278, R280,
R287). -/
def linkFrame (p : Params) (count : Nat) : Instr → Phase → Option (List Byte)
  | .send .., .sIdle1 | .send .., .sIdle2 | .send .., .sToIdle => some [p.codeSidle]
  | .send .., .sFlush1 | .send .., .sFlush2 | .send .., .sToFlush => some [p.codeSftx]
  | .send dest d, .sLoad => some (loadFrame p dest d)
  | .send .., .sStx => some [p.codeStx]
  | .send .., .sRxFlush => some [p.codeSfrx]
  | .send .., .sRxEnter => some [p.codeSrx]
  | .receive, .rIdle | .receive, .rOvfIdle | .receive, .rResIdle => some [p.codeSidle]
  | .receive, .rFlush | .receive, .rOvfFlush | .receive, .rResFlush => some [p.codeSfrx]
  | .receive, .rSrx | .receive, .rOvfSrx | .receive, .rResSrx => some [p.codeSrx]
  | .receive, .rCount1 | .receive, .rCount2 | .receive, .rCountRetry _ =>
    some (statusFrame p p.addrRxbytes)
  | .receive, .rState => some (statusFrame p p.addrMarcstate)
  | .receive, .rBurst => some (burstReadFrame p count)
  | _, _ => none

/-- LINK_MODE when a link operation that began in mode m sends its frame at a phase (R200, R270). -/
def linkModeAt (m : LinkMode) : Phase → LinkMode
  | .sIdle1 | .rIdle => m
  | .sIdle2 | .sToIdle => .tx
  | .rCount1 | .rCount2 | .rCountRetry _ | .rState | .rBurst | .rOvfIdle | .rResIdle => .rx
  | _ => .idle

/-! ### What an operation may write (R52) -/

/-- The columns of the write matrix, with LQ_* taken apart, and what the matrix leaves out. -/
inductive Column where
  | linkMode | localAddr | cs | initialised | configured | rx | txFrame | lqRaw | lqDbm | lqClass
  | rdData | pf | counters | busData | environment
  deriving DecidableEq, Repr

/-- A column is as it was. -/
def Same (s t : State) : Column → Prop
  | .linkMode => t.linkMode = s.linkMode
  | .localAddr => t.localAddr = s.localAddr ∧ t.written.localAddr = s.written.localAddr
  | .cs => t.cs = s.cs
  | .initialised => t.initialised = s.initialised
  | .configured => t.configured = s.configured
  | .rx => t.rxLen = s.rxLen ∧ t.rxAddr = s.rxAddr ∧ t.rxBuf = s.rxBuf ∧ t.rxRssiRaw = s.rxRssiRaw ∧
      t.rxStatus2 = s.rxStatus2 ∧ t.written.rx = s.written.rx ∧ t.rxDraws = s.rxDraws
  | .txFrame => t.txFrame = s.txFrame ∧ t.txFrameLen = s.txFrameLen
  | .lqRaw => t.lqRaw = s.lqRaw ∧ t.written.lqRaw = s.written.lqRaw
  | .lqDbm => t.lqDbm = s.lqDbm ∧ t.written.lqDbm = s.written.lqDbm
  | .lqClass => t.lqClass = s.lqClass ∧ t.written.lqClass = s.written.lqClass
  | .rdData => t.rdData = s.rdData ∧ t.written.rdData = s.written.rdData
  | .pf => t.pfLen = s.pfLen ∧ t.pfAddr = s.pfAddr ∧ t.pfPayload = s.pfPayload ∧ t.written.pf = s.written.pf
  | .counters => t.polls = s.polls ∧ t.retries = s.retries
  | .busData => t.busData = s.busData
  | .environment => t.env = s.env ∧ t.trace = s.trace

/-- Every column outside `ws` is as it was, and so are the parameters, the queued input, and, unless a model
fault is raised, FAULTED. -/
def WritesOnly (ws : List Column) (s t : State) : Prop :=
  (∀ c, c ∉ ws → Same s t c) ∧ t.params = s.params ∧ t.hostIn = s.hostIn ∧ t.busIn = s.busIn ∧
  (t.faulted = s.faulted ∧ t.faultCause = s.faultCause ∨ t.faulted = true ∧ t.faultCause ≠ none)

/-- The byte written at each address of the reference transceiver's CREG outside `xs` is as it was. -/
def SameMemoryOutside (xs : List Nat) (s t : State) : Prop :=
  ∀ x, x ∉ xs → Memory.read t.env.chip.creg x = Memory.read s.env.chip.creg x

/-! ### The bus trace -/

/-- Events are properly framed: every exchange stands between a cs_low and the next cs_high, and samples and
settle waits stand outside (R90, R456). `selected` says whether CS is low before the events. -/
def framedFrom : Bool → List Event → Bool
  | selected, [] => !selected
  | false, .csLow :: es => framedFrom true es
  | true, .csHigh :: es => framedFrom false es
  | true, .xchg _ _ :: es => framedFrom true es
  | false, .sample _ :: es => framedFrom false es
  | false, .settle :: es => framedFrom false es
  | _, _ :: _ => false

/-- Every SFTX and SFRX command byte comes after a SIDLE with no STX or SRX between (R211). `idle` says whether
such a SIDLE has been seen, `command` whether the next exchange is a command byte. -/
def flushesAfterIdle (p : Params) : Bool → Bool → List Event → Bool
  | _, _, [] => true
  | idle, _, .csLow :: es => flushesAfterIdle p idle true es
  | idle, true, .xchg m _ :: es =>
    if m = p.codeSidle then flushesAfterIdle p true false es
    else if m = p.codeStx ∨ m = p.codeSrx then flushesAfterIdle p false false es
    else if m = p.codeSftx ∨ m = p.codeSfrx then idle && flushesAfterIdle p idle false es
    else flushesAfterIdle p idle false es
  | idle, false, .xchg _ _ :: es => flushesAfterIdle p idle false es
  | idle, c, .csHigh :: es => flushesAfterIdle p idle c es
  | idle, c, .sample _ :: es => flushesAfterIdle p idle c es
  | idle, c, .settle :: es => flushesAfterIdle p idle c es

/-- How many chip-select frames a trace holds. -/
def transactionCount (es : List Event) : Nat := es.countP (fun e => e = .csLow)

/-- How many completion-line samples a trace holds. -/
def sampleCount (es : List Event) : Nat := es.countP (fun e => e = .sample true ∨ e = .sample false)

/-! ### The invariant -/

/-- Between two steps: CS is high (R33); the sequencer is at rest, or RESET's SRES has been sent and its settle
wait is under way (R36, R37, log 12); a configured block is initialised and has a local address (R32, R35); the
buffers have their sizes and TX_FRAME_LEN its bound (R40, R41, R80); FAULTED says whether a fault was raised (R51); the
parameters are legal (R7); the reference chip's memory is canonical and holds configuration registers only,
and its FIFOs are within capacity (R100). -/
def BlockInv (s : State) : Prop :=
  s.params.Legal ∧
  s.cs = true ∧
  (s.busy = false ∧ s.phase = .none ∨ s.busy = true ∧ s.phase = .rstSettle) ∧
  (s.configured = true → s.initialised = true ∧ s.written.localAddr = true) ∧
  s.rxBuf.length = s.params.rxBufLen ∧
  s.txFrame.length = s.params.maxFrame ∧ s.txFrameLen ≤ s.params.maxFrame ∧
  (s.faulted = true ↔ s.faultCause ≠ none) ∧
  Memory.wf s.env.chip.creg ∧ (∀ c ∈ s.env.chip.creg, c.1 ≤ s.params.configLast.toNat) ∧
  s.env.chip.txFifo.length ≤ s.params.fifoSize ∧ s.env.chip.rxFifo.length ≤ s.params.fifoSize

end Sys2Proof.Machine
end

