-- ==== Sys2Proof/Certificates/Slice0/Obligations.lean ====
section
/-! DEFINITION. The statements for the provers. Each docstring names the rules of spec/ it formalises. -/

open Sys2Proof Sys2Proof.Machine

/-! ### Encoding -/

/-- R136, R137: the host encoding of every well-formed host operation decodes to that operation, whatever bytes
follow it. -/
def Obligations.HostEncodingRoundTrips : Prop :=
  ∀ (p : Params) (i : Instr) (rest : List Byte), i.WellFormed p → i.isBus = false →
    decodeHost (encode p i ++ rest) = .instr i rest

/-- R125, R126: the frame of every well-formed bus command decodes to that command, for every value of the parameters
within R7's bounds and with the distinctness that D3 says the rules depend on (log 24). -/
def Obligations.BusEncodingRoundTrips : Prop :=
  ∀ (p : Params) (i : Instr), p.Legal → p.Distinct → i.WellFormed p → i.isBus = true → decodeBus p (encode p i) = .instr i

/-- R136, R137 for host bytes, R125, R126, R131 for frames: bytes that decode are the encoding of the well-formed
instruction they decode to, so no two byte sequences spell one instruction. That a frame of no format of R125 is
rejected, whatever class R124 gives its command byte, is the decoder's (log 17). -/
def Obligations.DecodedBytesAreTheEncoding : Prop :=
  (∀ (p : Params) (bs rest : List Byte) (i : Instr), decodeHost bs = .instr i rest →
    bs = encode p i ++ rest ∧ i.WellFormed p ∧ i.isBus = false) ∧
  (∀ (p : Params) (frame : List Byte) (i : Instr), decodeBus p frame = .instr i →
    frame = encode p i ∧ i.WellFormed p ∧ i.isBus = true)

/-- R139, R129, R130, V-L1-3: words written out in the spec decode to the instructions they stand for,
the bus words at R7's parameter values. -/
def Obligations.WrittenOutWordsDecode : Prop :=
  decodeHost [0x01, 0x0D, 0x21] = .instr (.wreg 0x0D 0x21) [] ∧
  decodeHost [0x02, 0x3F, 0x05, 0x04, 0x66, 0x11, 0x22, 0x33] = .instr (.wburst 0x3F [0x04, 0x66, 0x11, 0x22, 0x33]) [] ∧
  decodeHost [0x06, 0x36] = .instr (.strobe 0x36) [] ∧
  decodeHost [0x08, 0x66, 0x01, 0x09, 0x66] = .instr (.configure 0x66 [(0x09, 0x66)]) [] ∧
  decodeHost [0x0B, 0x66, 0x03, 0x11, 0x22, 0x33] = .instr (.send 0x66 [0x11, 0x22, 0x33]) [] ∧
  decodeHost [0x0F, 0xFF, 0xBA] = .instr (.classify (BitVec.ofInt 16 (-70))) [] ∧
  decodeBus Config.parameters [0x89, 0x00] = .instr (.busReadSingle 0x09) ∧
  decodeBus Config.parameters [0xF5, 0x00] = .instr .busReadMarcstate ∧
  decodeBus Config.parameters [0x7F, 0x04, 0x66] = .instr (.busFifoWrite [0x04, 0x66]) ∧
  decodeBus Config.parameters [0x36] = .instr .busSidle

/-- R138: a reserved opcode selects no operation and is refused; nothing happens on the bus and no register
changes. -/
def Obligations.ReservedOpcodesAreRefused : Prop :=
  ∀ (s : State) (op : Byte) (rest : List Byte), HostReady s → s.busIn = [] → s.hostIn = op :: rest →
    (op = 0x00 ∨ 0x10 ≤ op.toNat) →
    step s = .next { s with hostIn := rest, reply := .notAdmitted }

/-- R137, R403: an operation whose bytes end before its arguments are complete is refused, and so is a complete
one of which an address byte has bits 7..6 set, in CONFIGURE any of its m. How many bytes a refusal takes from the
host's stream is the model's choice (log 2). -/
def Obligations.TruncatedAndWideAddressesAreRefused : Prop :=
  (∀ (s : State) (i : Instr) (n : Nat), HostReady s → s.busIn = [] → i.WellFormed s.params → i.isBus = false →
    0 < n → n < (encode s.params i).length → s.hostIn = (encode s.params i).take n →
    step s = .next { s with hostIn := [], reply := .notAdmitted }) ∧
  (∀ (s : State) (b v n : Byte) (d rest : List Byte) (op : List Byte), HostReady s → s.busIn = [] → 64 ≤ b.toNat →
    n.toNat = d.length →
    op ∈ [[0x01, b, v], [0x02, b, n] ++ d, [0x03, b], [0x04, b], [0x05, b, v]] →
    s.hostIn = op ++ rest →
    step s = .next { s with hostIn := rest, reply := .notAdmitted }) ∧
  (∀ (s : State) (la m : Byte) (pairs : List (Byte × Byte)) (rest : List Byte), HostReady s → s.busIn = [] →
    m.toNat = pairs.length → (∃ x ∈ pairs, 64 ≤ x.1.toNat) →
    s.hostIn = 0x08 :: la :: m :: (pairs.flatMap fun x => [x.1, x.2]) ++ rest →
    step s = .next { s with hostIn := rest, reply := .notAdmitted })

/-! ### Steps and reset -/

/-- R5, R6: when the queued bytes decode, the step executes the decoded instruction with those bytes taken; a bus
frame goes before a host operation (log 1, 19). -/
def Obligations.StepRunsTheDecodedInstruction : Prop :=
  (∀ (s : State) (frame : List Byte) (later : List (List Byte)) (i : Instr),
    s.busIn = frame :: later → decodeBus s.params frame = .instr i → step s = exec i { s with busIn := later }) ∧
  (∀ (s : State) (i : Instr) (rest : List Byte),
    s.busIn = [] → decodeHost s.hostIn = .instr i rest → step s = exec i { s with hostIn := rest })

/-- R6, R209: a queued frame that spells no bus command is taken and not admitted, which is the model's choice (log 1,
13, 17); with nothing issued and no settle wait under way nothing happens; with one under way, RESET completes
(log 12, 19). -/
def Obligations.StepWithoutAnInstruction : Prop :=
  (∀ (s : State) (frame : List Byte) (later : List (List Byte)) (why : Reject), s.faulted = false →
    s.busIn = frame :: later → decodeBus s.params frame = .rejected why →
    step s = .next { s with busIn := later, reply := .notAdmitted }) ∧
  (∀ s : State, s.busIn = [] → s.hostIn = [] → s.phase ≠ .rstSettle → step s = .next s) ∧
  (∀ s : State, s.busIn = [] → s.hostIn = [] → s.phase = .rstSettle → s.faulted = false →
    step s = .next { s with
      env := s.env.settled, trace := s.trace ++ [.settle], linkMode := .idle, initialised := true
      configured := false, outcome := .ok, detail := ⟨.rstSettle, .none⟩, phase := .none, busy := false
      reply := .outcome })

/-- R450: the power-on state. The registers the rule calls unwritten read as unwritten. -/
def Obligations.PowerOnState : Prop :=
  let s := State.reset
  s.linkMode = .idle ∧ s.cs = true ∧ s.initialised = false ∧ s.configured = false ∧ s.busy = false ∧
  s.phase = .none ∧ s.outcome = .none ∧ s.detail = ⟨.none, .none⟩ ∧ s.polls = 0 ∧ s.retries = 0 ∧
  s.txFrameLen = 0 ∧ s.faulted = false ∧
  s.readLocalAddr = none ∧ s.readRxLen = none ∧ s.readRxAddr = none ∧ s.readRxBuf = none ∧
  s.readRxRssiRaw = none ∧ s.readRxStatus2 = none ∧ (∀ i, s.readTxFrame i = none) ∧
  s.readLqRaw = none ∧ s.readLqDbm = none ∧ s.readLqClass = none ∧ s.readRdData = none ∧
  s.readPfLen = none ∧ s.readPfAddr = none ∧ s.readPfPayload = none ∧
  s.env.source = .oracle ∧ s.env.busTape = [] ∧ s.env.lineTape = []

/-- R7: the invariant holds at reset, for every value of the OPEN parameters; the parameters are legal and distinct, and
those that R7 gives a value have it (log 7). -/
def Obligations.InvariantAtReset : Prop :=
  let p := State.reset.params
  BlockInv State.reset ∧ p.Legal ∧ p.Distinct ∧
  p.fifoSize = 64 ∧ p.rxBufLen = 64 ∧ p.maxPayload = p.maxFrame - 2 ∧
  p.addrFifo = 0x3F ∧ p.addrRssi = 0x34 ∧ p.addrMarcstate = 0x35 ∧ p.addrRxbytes = 0x3B ∧
  p.codeSres = 0x30 ∧ p.codeSrx = 0x34 ∧ p.codeStx = 0x35 ∧ p.codeSidle = 0x36 ∧ p.codeSfrx = 0x3A ∧ p.codeSftx = 0x3B ∧
  p.configLast = 0x2E ∧ p.statusFirst = 0x30 ∧ p.statusLast = 0x3B ∧
  p.rxbytesCountMask = 0x7F ∧ p.marcstateMask = 0x1F ∧ p.marcstateOverflow = 0x11 ∧ p.crcOkBit = 7 ∧ p.dummyByte = 0x00 ∧
  p.rssiOffset = 74 ∧ p.rssiVeryWeakBelow = -100 ∧ p.rssiStrongFrom = -70

/-- R33, R35, R36, R37, R40, R41, R80, R100: every step keeps the invariant, from every state that has it. -/
def Obligations.InvariantKept : Prop :=
  ∀ s t : State, BlockInv s → step s = .next t → BlockInv t

/-! ### Admission, refusals and model faults -/

/-- R51: while FAULTED = 1 every operation does nothing, and FAULTED stays. -/
def Obligations.FaultedBlockDoesNothing : Prop :=
  ∀ (i : Instr) (s : State), s.faulted = true → exec i s = .next s

/-- R36: a host operation issued while BUSY = 1 faults F_BUSY, whatever its operands. -/
def Obligations.BusyBlockFaults : Prop :=
  ∀ (i : Instr) (s : State), i.isBus = false → s.faulted = false → s.busy = true →
    exec i s = .next { s with faulted := true, faultCause := some .busy }

/-- R81, R203, R371, R403: a host operation whose bytes are not admitted changes nothing and is reported "not
admitted", whatever the state. That a bus command outside the addresses and lengths the block sends is refused too
is the model's choice (log 13). -/
def Obligations.RefusedOperationsChangeNothing : Prop :=
  ∀ (i : Instr) (s : State), s.faulted = false → (i.isBus = false → s.busy = false) → ¬ Admitted s.params i →
    exec i s = .next { s with reply := .notAdmitted }

/-- R34, R35, R404: an admitted operation whose arguments report no outcome faults F_NOT_INITIALISED before a
RESET, and if it needs CONFIGURE, F_NOT_CONFIGURED before one; nothing else changes. That a bus command other than
SRES faults F_NOT_INITIALISED too is the model's reading (log 13). -/
def Obligations.GatedOperationsFault : Prop :=
  (∀ (i : Instr) (s : State), HostReady s → DrivesBus i → Admitted s.params i → ¬ ArgumentsReported s i →
    s.initialised = false →
    exec i s = .next { s with faulted := true, faultCause := some .notInitialised }) ∧
  (∀ (i : Instr) (s : State), HostReady s → NeedsConfiguration i → ¬ ArgumentsReported s i →
    s.initialised = true → s.configured = false →
    exec i s = .next { s with faulted := true, faultCause := some .notConfigured }) ∧
  (∀ (i : Instr) (s : State), s.faulted = false → i.isBus = true → i ≠ .busSres → Admitted s.params i →
    s.phase ≠ .rstSettle → s.initialised = false →
    exec i s = .next { s with faulted := true, faultCause := some .notInitialised })

/-- R202: a host flush in TX or RX faults F_FLUSH_NOT_IDLE before any bus activity, and the block's own sequences
never reach this fault. -/
def Obligations.FlushOutsideIdleFaults : Prop :=
  (∀ (s : State) (code : Byte), BusReady s → (code = s.params.codeSftx ∨ code = s.params.codeSfrx) → s.linkMode ≠ .idle →
    exec (.strobe code) s = .next { s with faulted := true, faultCause := some .flushNotIdle }) ∧
  (∀ (s t : State) (i : Instr), (i = .receive ∨ ∃ dest p, i = .send dest p) → s.faultCause ≠ some .flushNotIdle →
    exec i s = .next t → t.faultCause ≠ some .flushNotIdle)

/-- R210: a transaction begun during the settle wait faults F_SETTLE. -/
def Obligations.SettleWaitFaults : Prop :=
  ∀ (i : Instr) (s : State), i.isBus = true → s.faulted = false → Admitted s.params i → s.phase = .rstSettle →
    exec i s = .next { s with faulted := true, faultCause := some .settle }

/-- R402: a model fault sets FAULTED and changes nothing else, in every state the invariant admits. -/
def Obligations.ModelFaultsChangeNothingElse : Prop :=
  ∀ (i : Instr) (s t : State), BlockInv s → exec i s = .next t → t.faulted = true →
    t = { s with faulted := true, faultCause := t.faultCause }

/-- R163: a burst of 0 or more than FIFO_SIZE bytes ends in BUS_FAULT with MALFORMED_LENGTH before any bus
activity, CS as it was, also before a RESET. -/
def Obligations.MalformedBurstLength : Prop :=
  ∀ (i : Instr) (a : Addr) (n : Nat) (s : State), HostReady s → (a = s.params.addrFifo ∨ ConfigRange s.params a) →
    (n = 0 ∨ s.params.fifoSize < n) →
    ((∃ d, i = .wburst a d ∧ d.length = n) ∨ (∃ b, i = .rburst a b ∧ b.toNat = n)) →
    exec i s = .next { s with
      outcome := .busFault, detail := ⟨.xfer, .malformedLength⟩, phase := .none, busy := false, reply := .outcome
      polls := 0, retries := 0 }

/-- R248: a payload with len(p) + 2 > MAX_FRAME gives PAYLOAD_TOO_LARGE from BUILD_FRAME and from SEND with no bus
event on the trace, in every state that takes an operation. -/
def Obligations.PayloadTooLargeNoBusActivity : Prop :=
  ∀ (i : Instr) (dest : Byte) (p : List Byte) (s : State), HostReady s → s.params.maxFrame < p.length + 2 →
    (i = .buildFrame dest p ∨ i = .send dest p) →
    exec i s = .next { s with
      outcome := .payloadTooLarge, detail := ⟨.sCheck, .none⟩, phase := .none, busy := false, reply := .outcome
      polls := 0, retries := 0 }

/-! ### Register access, strobes, reset, configuration -/

/-- R125, R160, R165: WREG sends [0x00 | a, v] and reports OK. -/
def Obligations.WregCompletes : Prop :=
  ∀ (a : Addr) (v m₀ m₁ : Byte) (e : Env) (s : State), BusReady s → ConfigRange s.params a →
    s.busAnswer [a.setWidth 8, v] = ([m₀, m₁], e) →
    exec (.wreg a v) s = .next { s with
      cs := true, env := e, trace := s.trace ++ [.csLow, .xchg (a.setWidth 8) m₀, .xchg v m₁, .csHigh]
      outcome := .ok, detail := ⟨.xfer, .none⟩, phase := .none, busy := false, reply := .outcome
      polls := 0, retries := 0 }

/-- R125, R160, R166: WBURST sends [0x40 | a] ++ d in one transaction and reports OK, for 1..FIFO_SIZE bytes at the
FIFO or within the configuration registers. -/
def Obligations.WburstCompletes : Prop :=
  ∀ (a : Addr) (d miso : List Byte) (e : Env) (s : State), BusReady s → BurstRange s.params a d.length →
    1 ≤ d.length → d.length ≤ s.params.fifoSize →
    s.busAnswer ((0x40 ||| a.setWidth 8) :: d) = (miso, e) → miso.length = d.length + 1 →
    exec (.wburst a d) s = .next { s with
      cs := true, env := e, trace := s.trace ++ transaction ((0x40 ||| a.setWidth 8) :: d) miso
      outcome := .ok, detail := ⟨.xfer, .none⟩, phase := .none, busy := false, reply := .outcome
      polls := 0, retries := 0 }

/-- R125, R127, R167, R168, R169: RREG, RSTATUS and RBURST send their frames, ignore MISO byte 0, write RD_DATA with
the data bytes and report OK. -/
def Obligations.ReadsCompleteWithTheirData : Prop :=
  ∀ (i : Instr) (mosi d : List Byte) (m₀ : Byte) (e : Env) (s : State), BusReady s →
    ((∃ a, i = .rreg a ∧ ConfigRange s.params a ∧ mosi = [0x80 ||| a.setWidth 8, s.params.dummyByte]) ∨
     (∃ a, i = .rstatus a ∧ StatusRange s.params a ∧ mosi = statusFrame s.params a) ∨
     (∃ a n, i = .rburst a n ∧ BurstRange s.params a n.toNat ∧ 1 ≤ n.toNat ∧ n.toNat ≤ s.params.fifoSize ∧
       mosi = (0xC0 ||| a.setWidth 8) :: List.replicate n.toNat s.params.dummyByte)) →
    s.busAnswer mosi = (m₀ :: d, e) → d.length + 1 = mosi.length →
    exec i s = .next { s with
      cs := true, env := e, trace := s.trace ++ transaction mosi (m₀ :: d)
      rdData := d, written := { s.written with rdData := true }
      outcome := .ok, detail := ⟨.xfer, .none⟩, phase := .none, busy := false, reply := .outcome
      polls := 0, retries := 0 }

/-- R162: a register access whose transfer is short ends at once in BUS_FAULT at XFER, with CS released, the bytes
that moved on the trace, no retry and RD_DATA as it was. -/
def Obligations.ShortRegisterAccessFaults : Prop :=
  ∀ (i : Instr) (mosi miso : List Byte) (e : Env) (s : State), BusReady s → Admitted s.params i → ¬ ArgumentsReported s i →
    ((∃ a v, i = .wreg a v ∧ mosi = [a.setWidth 8, v]) ∨
     (∃ a d, i = .wburst a d ∧ mosi = (0x40 ||| a.setWidth 8) :: d) ∨
     (∃ a, i = .rreg a ∧ mosi = [0x80 ||| a.setWidth 8, s.params.dummyByte]) ∨
     (∃ a, i = .rstatus a ∧ mosi = statusFrame s.params a) ∨
     (∃ a n, i = .rburst a n ∧ mosi = (0xC0 ||| a.setWidth 8) :: List.replicate n.toNat s.params.dummyByte)) →
    s.busAnswer mosi = (miso, e) → miso.length < mosi.length →
    exec i s = .next { s with
      cs := true, env := e, trace := s.trace ++ transaction mosi miso
      outcome := .busFault, detail := ⟨.xfer, .none⟩, phase := .none, busy := false, reply := .outcome
      polls := 0, retries := 0 }

/-- R200, R203, R204 to R208: a host strobe sends its code and sets LINK_MODE as R200 says, where the codes differ (D3,
log 24); when the transaction faults LINK_MODE keeps its value. -/
def Obligations.StrobesSetLinkMode : Prop :=
  ∀ (code : Byte) (mode : LinkMode) (e : Env) (s : State), BusReady s → s.params.Distinct →
    (code, mode) ∈ [(s.params.codeSidle, LinkMode.idle), (s.params.codeStx, .tx), (s.params.codeSrx, .rx),
      (s.params.codeSftx, s.linkMode), (s.params.codeSfrx, s.linkMode)] →
    (code = s.params.codeSftx ∨ code = s.params.codeSfrx → s.linkMode = .idle) →
    (∀ m, s.busAnswer [code] = ([m], e) →
      exec (.strobe code) s = .next { s with
        cs := true, env := e, trace := s.trace ++ [.csLow, .xchg code m, .csHigh]
        linkMode := mode
        outcome := .ok, detail := ⟨.strobe, .none⟩, phase := .none, busy := false, reply := .outcome
        polls := 0, retries := 0 }) ∧
    (s.busAnswer [code] = ([], e) →
      exec (.strobe code) s = .next { s with
        cs := true, env := e, trace := s.trace ++ [.csLow, .csHigh]
        outcome := .busFault, detail := ⟨.strobe, .none⟩, phase := .none, busy := false, reply := .outcome
        polls := 0, retries := 0 })

/-- R161, R209: RESET pulses CS, sends SRES, waits for the settle and leaves LINK_MODE IDLE, INITIALISED 1 and
CONFIGURED 0, in every state that takes an operation; a short SRES leaves both 0 and LINK_MODE as it was. -/
def Obligations.ResetCompletes : Prop :=
  ∀ (e : Env) (s : State), HostReady s →
    (∀ m, s.busAnswer [s.params.codeSres] = ([m], e) →
      exec .reset s = .next { s with
        cs := true, env := e.settled
        trace := s.trace ++ [.csLow, .csHigh, .csLow, .xchg s.params.codeSres m, .csHigh, .settle]
        linkMode := .idle, initialised := true, configured := false
        outcome := .ok, detail := ⟨.rstSettle, .none⟩, phase := .none, busy := false, reply := .outcome
        polls := 0, retries := 0 }) ∧
    (s.busAnswer [s.params.codeSres] = ([], e) →
      exec .reset s = .next { s with
        cs := true, env := e, trace := s.trace ++ [.csLow, .csHigh, .csLow, .csHigh]
        initialised := false, configured := false
        outcome := .busFault, detail := ⟨.rstSres, .none⟩, phase := .none, busy := false, reply := .outcome
        polls := 0, retries := 0 })

/-- R371: CONFIGURE writes its pairs in order, one transaction each, then sets LOCAL_ADDR and CONFIGURED; DETAIL names
the last write, or no phase when there is none. A short write i ends it in BUS_FAULT at CFG_WRITE(i) with writes
0..i-1 sent, CONFIGURED 0 and LOCAL_ADDR as it was. -/
def Obligations.ConfigureCompletes : Prop :=
  ∀ (la : Byte) (image : List (Addr × Byte)) (answers rest : List (List Byte)) (lines : List Bool) (s : State),
    BusReady s → s.phase = .none → (∀ x ∈ image, ConfigRange s.params x.1) → (∀ m ∈ answers, m.length = 2) →
    (answers.length = image.length → Settled s (answers ++ rest) lines →
      exec (.configure la image) s = .next { s with
        cs := if image = [] then s.cs else true, env := { s.env with busTape := rest }
        trace := s.trace ++ (List.zipWith (fun p m => transaction [p.1.setWidth 8, p.2] m) image answers).flatten
        localAddr := la, configured := true, written := { s.written with localAddr := true }
        outcome := .ok, detail := ⟨if image = [] then .none else .cfgWrite (image.length - 1), .none⟩
        phase := .none, busy := false, reply := .outcome, polls := 0, retries := 0 }) ∧
    (∀ (done left : List (Addr × Byte)) (a : Addr) (v : Byte) (m : List Byte), image = done ++ (a, v) :: left →
      answers.length = done.length → m.length < 2 → Settled s (answers ++ m :: rest) lines →
      exec (.configure la image) s = .next { s with
        cs := true, env := { s.env with busTape := rest }
        trace := s.trace ++ (List.zipWith (fun p m => transaction [p.1.setWidth 8, p.2] m) done answers).flatten ++
          transaction [a.setWidth 8, v] m
        configured := false
        outcome := .busFault, detail := ⟨.cfgWrite done.length, .none⟩
        phase := .none, busy := false, reply := .outcome, polls := 0, retries := 0 })

/-! ### Framing -/

/-- R240, R241, R243: BUILD_FRAME leaves [n + 1, dest] ++ p in TX_FRAME and n + 2 in TX_FRAME_LEN, also before a RESET. -/
def Obligations.BuildFrameCompletes : Prop :=
  ∀ (dest : Byte) (p : List Byte) (s : State), HostReady s → p.length + 2 ≤ s.params.maxFrame →
    exec (.buildFrame dest p) s = .next { s with
      txFrame := BitVec.ofNat 8 (p.length + 1) :: dest :: p ++ s.txFrame.drop (p.length + 2)
      txFrameLen := p.length + 2
      outcome := .ok, detail := ⟨.none, .none⟩, phase := .none, busy := false, reply := .outcome
      polls := 0, retries := 0 }

/-- R244, R245, R246: PARSE_FRAME gives NO_DATA for no bytes, MALFORMED for fewer than two bytes, a length byte of 0 or one
that claims more bytes than there are, and otherwise the length byte, the address byte and the L - 1 payload bytes;
bytes after r[L] are ignored. In each case POLLS and RETRIES are 0 (R42; log 20 for the argument outcomes). -/
def Obligations.ParseFrameCompletes : Prop :=
  ∀ (r : List Byte) (s : State), HostReady s →
    (r = [] → exec (.parseFrame r) s = .next { s with
      outcome := .noData, detail := ⟨.none, .none⟩, phase := .none, busy := false, reply := .outcome
      polls := 0, retries := 0 }) ∧
    (∀ l, r = [l] → exec (.parseFrame r) s = .next { s with
      outcome := .malformed, detail := ⟨.none, .malformedFrame⟩, phase := .none, busy := false, reply := .outcome
      polls := 0, retries := 0 }) ∧
    (∀ l a tail, r = l :: a :: tail → (l = 0 ∨ tail.length + 1 < l.toNat) → exec (.parseFrame r) s = .next { s with
      outcome := .malformed, detail := ⟨.none, .malformedFrame⟩, phase := .none, busy := false, reply := .outcome
      polls := 0, retries := 0 }) ∧
    (∀ l a p tail, r = l :: a :: (p ++ tail) → l.toNat = p.length + 1 → exec (.parseFrame r) s = .next { s with
      pfLen := l, pfAddr := a, pfPayload := p, written := { s.written with pf := true }
      outcome := .ok, detail := ⟨.none, .none⟩, phase := .none, busy := false, reply := .outcome
      polls := 0, retries := 0 })

/-- R247: the round-trip law. -/
def Obligations.FrameRoundTrips : Prop :=
  ∀ (p : List Byte) (addr : Byte) (s : State), HostReady s → s.params.Legal → p.length + 2 ≤ s.params.maxFrame →
    ∃ t u, exec (.buildFrame addr p) s = .next t ∧ t.outcome = .ok ∧ t.txFrameBytes.length = p.length + 2 ∧
      exec (.parseFrame t.txFrameBytes) t = .next u ∧ u.outcome = .ok ∧
      u.pfLen.toNat = p.length + 1 ∧ u.pfAddr = addr ∧ u.pfPayload = p

/-! ### SEND -/

/-- R272: SEND with RX_AFTER_TX = 0, its answers settled as complete, on a line that does what CHIP_CONFIG_OK says (R372,
log 25) within TX_START_POLLS and TX_END_POLLS samples: the transactions and samples on the trace, OK at S_FLUSH2,
LINK_MODE IDLE and the frame in TX_FRAME. -/
def Obligations.SendCompletes : Prop :=
  ∀ (dest : Byte) (p : List Byte) (m₁ m₂ m₄ m₅ m₆ : Byte) (m₃ : List Byte) (rest : List (List Byte))
    (i j : Nat) (lines : List Bool) (s : State),
    LinkReady s → s.params.rxAfterTx = false → p.length + 2 ≤ s.params.maxFrame →
    i < s.params.txStartPolls → j < s.params.txEndPolls → m₃.length = p.length + 3 →
    ChipConfigOk.Sending i j s.env.lineTape lines →
    s.env.source = .oracle → s.env.busTape = [m₁] :: [m₂] :: m₃ :: [m₄] :: [m₅] :: [m₆] :: rest →
    ∃ t, exec (.send dest p) s = .next t ∧ Concludes t .ok .sFlush2 .none ∧ t.linkMode = .idle ∧
      t.txFrameBytes = BitVec.ofNat 8 (p.length + 1) :: dest :: p ∧ t.txFrameLen = p.length + 2 ∧
      Settled t rest lines ∧ t.faulted = false ∧
      t.trace = s.trace ++ strobed s.params.codeSidle m₁ ++ strobed s.params.codeSftx m₂ ++
        transaction (loadFrame s.params dest p) m₃ ++ strobed s.params.codeStx m₄ ++
        samples (List.replicate i false ++ [true]) ++ samples (List.replicate j true ++ [false]) ++
        strobed s.params.codeSidle m₅ ++ strobed s.params.codeSftx m₆

/-- R272, R274: SEND with RX_AFTER_TX = 1, on a line as CHIP_CONFIG_OK says (R372, log 25), goes on with SFRX and SRX and
ends in RX. -/
def Obligations.SendReentersRx : Prop :=
  ∀ (dest : Byte) (p : List Byte) (m₁ m₂ m₄ m₅ m₆ m₇ m₈ : Byte) (m₃ : List Byte) (rest : List (List Byte))
    (i j : Nat) (lines : List Bool) (s : State),
    LinkReady s → s.params.rxAfterTx = true → p.length + 2 ≤ s.params.maxFrame →
    i < s.params.txStartPolls → j < s.params.txEndPolls → m₃.length = p.length + 3 →
    ChipConfigOk.Sending i j s.env.lineTape lines →
    s.env.source = .oracle → s.env.busTape = [m₁] :: [m₂] :: m₃ :: [m₄] :: [m₅] :: [m₆] :: [m₇] :: [m₈] :: rest →
    ∃ t, exec (.send dest p) s = .next t ∧ Concludes t .ok .sRxEnter .none ∧ t.linkMode = .rx ∧
      Settled t rest lines ∧ t.faulted = false ∧
      t.trace = s.trace ++ strobed s.params.codeSidle m₁ ++ strobed s.params.codeSftx m₂ ++
        transaction (loadFrame s.params dest p) m₃ ++ strobed s.params.codeStx m₄ ++
        samples (List.replicate i false ++ [true]) ++ samples (List.replicate j true ++ [false]) ++
        strobed s.params.codeSidle m₅ ++ strobed s.params.codeSftx m₆ ++
        strobed s.params.codeSfrx m₇ ++ strobed s.params.codeSrx m₈

/-- R271, R273: a wait whose budget of samples runs out ends SEND, after SIDLE and SFTX, in TX_TIMEOUT naming the wait,
with LINK_MODE IDLE, whatever RX_AFTER_TX is. -/
def Obligations.SendTimesOut : Prop :=
  ∀ (dest : Byte) (p : List Byte) (m₁ m₂ m₄ m₅ m₆ : Byte) (m₃ : List Byte) (rest : List (List Byte))
    (i : Nat) (lines : List Bool) (s : State),
    LinkReady s → p.length + 2 ≤ s.params.maxFrame → m₃.length = p.length + 3 →
    s.env.source = .oracle → s.env.busTape = [m₁] :: [m₂] :: m₃ :: [m₄] :: [m₅] :: [m₆] :: rest →
    (s.env.lineTape = List.replicate s.params.txStartPolls false ++ lines →
      ∃ t, exec (.send dest p) s = .next t ∧ Concludes t .txTimeout .sWaitStart .none ∧ t.linkMode = .idle ∧
        Settled t rest lines ∧
        t.trace = s.trace ++ strobed s.params.codeSidle m₁ ++ strobed s.params.codeSftx m₂ ++
          transaction (loadFrame s.params dest p) m₃ ++ strobed s.params.codeStx m₄ ++
          samples (List.replicate s.params.txStartPolls false) ++
          strobed s.params.codeSidle m₅ ++ strobed s.params.codeSftx m₆) ∧
    (i < s.params.txStartPolls →
      s.env.lineTape = List.replicate i false ++ true :: (List.replicate s.params.txEndPolls true ++ lines) →
      ∃ t, exec (.send dest p) s = .next t ∧ Concludes t .txTimeout .sWaitEnd .none ∧ t.linkMode = .idle ∧
        Settled t rest lines ∧
        t.trace = s.trace ++ strobed s.params.codeSidle m₁ ++ strobed s.params.codeSftx m₂ ++
          transaction (loadFrame s.params dest p) m₃ ++ strobed s.params.codeStx m₄ ++
          samples (List.replicate i false ++ [true]) ++ samples (List.replicate s.params.txEndPolls true) ++
          strobed s.params.codeSidle m₅ ++ strobed s.params.codeSftx m₆)

/-! ### RECEIVE -/

/-- R275, R280, R286, R287: a frame that passes both checks is delivered, on a chip that does what CHIP_CONFIG_OK says
(R372, log 25): its length byte, its address byte, its payload at the start of RX_BUF, whose other bytes keep the
draw, and its two status bytes; bytes after the frame are dropped; RX is re-entered. -/
def Obligations.ReceiveDelivers : Prop :=
  ∀ (m₁ m₂ m₃ z w c m l a s₁ s₂ d₁ d₂ d₃ : Byte) (reads : List (Byte × Byte)) (payload later image : List Byte)
    (rest : List (List Byte)) (i : Nat) (lines : List Bool) (s : State),
    LinkReady s → s.written.localAddr = true → i < s.params.rxPolls → CountAgreed s.params reads c →
    (c &&& s.params.rxbytesCountMask).toNat = image.length → image.length ≤ s.params.rxBufLen →
    m &&& s.params.marcstateMask ≠ s.params.marcstateOverflow →
    ChipConfigOk.Receiving s.params l a payload s₁ s₂ later true image i s.env.lineTape lines → a = s.localAddr →
    s.env.source = .oracle →
    s.env.busTape = [m₁] :: [m₂] :: [m₃] :: readAnswers reads ++
      [z, m] :: (w :: image) :: [d₁] :: [d₂] :: [d₃] :: rest →
    ∃ t, exec .receive s = .next t ∧ Concludes t .ok .rDeliver .none ∧ t.linkMode = .rx ∧
      t.rxLen = l ∧ t.rxAddr = a ∧ t.rxRssiRaw = s₁ ∧ t.rxStatus2 = s₂ ∧
      t.rxBuf = payload ++ (drawnBuf s.params.rxBufLen s.rxDraws).drop payload.length ∧ t.written.rx = true ∧
      Settled t rest lines ∧ t.faulted = false ∧ t.retries = reads.length - 2 ∧
      t.trace = s.trace ++ rxEntered s.params m₁ m₂ m₃ ++ samples (List.replicate i false ++ [true]) ++
        countReads s.params reads ++ statusRead s.params s.params.addrMarcstate z m ++
        transaction (burstReadFrame s.params image.length) (w :: image) ++ rxEntered s.params d₁ d₂ d₃

/-- R277: an agreed count of 0 gives NO_DATA with LINK_MODE RX and neither a FIFO read nor a strobe after the count; the
outputs are the draws of entry (R40). -/
def Obligations.ReceiveReportsNoData : Prop :=
  ∀ (m₁ m₂ m₃ c : Byte) (reads : List (Byte × Byte)) (rest : List (List Byte)) (i : Nat) (lines : List Bool) (s : State),
    LinkReady s → i < s.params.rxPolls → CountAgreed s.params reads c → c &&& s.params.rxbytesCountMask = 0 →
    Settled s ([m₁] :: [m₂] :: [m₃] :: readAnswers reads ++ rest) (List.replicate i false ++ true :: lines) →
    ∃ t, exec .receive s = .next t ∧ Concludes t .noData (countPhase reads.length) .none ∧ t.linkMode = .rx ∧
      OutputsDrawn s.rxDraws t ∧ Settled t rest lines ∧ t.retries = reads.length - 2 ∧
      t.trace = s.trace ++ rxEntered s.params m₁ m₂ m₃ ++ samples (List.replicate i false ++ [true]) ++
        countReads s.params reads

/-- R278, R279: MARCSTATE overflow, or else a count beyond RX_BUF_LEN, gives RX_FIFO_OVERFLOW after SIDLE, SFRX, SRX,
without a FIFO read; the sub-reason tells the two apart; the outputs are the draws of entry (R40). -/
def Obligations.ReceiveReportsOverflow : Prop :=
  ∀ (m₁ m₂ m₃ z c m d₁ d₂ d₃ : Byte) (reads : List (Byte × Byte)) (rest : List (List Byte)) (i : Nat)
    (lines : List Bool) (s : State),
    LinkReady s → i < s.params.rxPolls → CountAgreed s.params reads c → c &&& s.params.rxbytesCountMask ≠ 0 →
    (m &&& s.params.marcstateMask = s.params.marcstateOverflow ∨
      s.params.rxBufLen < (c &&& s.params.rxbytesCountMask).toNat) →
    Settled s ([m₁] :: [m₂] :: [m₃] :: readAnswers reads ++ [z, m] :: [d₁] :: [d₂] :: [d₃] :: rest)
      (List.replicate i false ++ true :: lines) →
    ∃ t, exec .receive s = .next t ∧
      Concludes t .rxFifoOverflow .rState
        (if m &&& s.params.marcstateMask = s.params.marcstateOverflow then .none else .countOverBuffer) ∧
      t.linkMode = .rx ∧ OutputsDrawn s.rxDraws t ∧ Settled t rest lines ∧ t.retries = reads.length - 2 ∧
      t.trace = s.trace ++ rxEntered s.params m₁ m₂ m₃ ++ samples (List.replicate i false ++ [true]) ++
        countReads s.params reads ++ statusRead s.params s.params.addrMarcstate z m ++ rxEntered s.params d₁ d₂ d₃

/-- R281, R282, R283: an image too short for its length byte, or with a length byte of 0, or whose CRC-OK bit is 0, gives
CRC_ERROR with RX_BUF all zero and RX re-entered, whatever its address byte; the other outputs are the draws of entry
(R40). -/
def Obligations.ReceiveReportsCrcError : Prop :=
  ∀ (m₁ m₂ m₃ z w c m l d₁ d₂ d₃ : Byte) (reads : List (Byte × Byte)) (r : List Byte) (rest : List (List Byte)) (i : Nat)
    (lines : List Bool) (s : State),
    LinkReady s → i < s.params.rxPolls → CountAgreed s.params reads c →
    (c &&& s.params.rxbytesCountMask).toNat = r.length + 1 → r.length + 1 ≤ s.params.rxBufLen →
    m &&& s.params.marcstateMask ≠ s.params.marcstateOverflow →
    (l = 0 ∨ r.length + 1 < l.toNat + 3 ∨ (r.getD (l.toNat + 1) 0).getLsbD s.params.crcOkBit = false) →
    Settled s ([m₁] :: [m₂] :: [m₃] :: readAnswers reads ++ [z, m] :: (w :: l :: r) :: [d₁] :: [d₂] :: [d₃] :: rest)
      (List.replicate i false ++ true :: lines) →
    ∃ t, exec .receive s = .next t ∧
      Concludes t .crcError .rCrc (if l = 0 ∨ r.length + 1 < l.toNat + 3 then .malformedFrame else .none) ∧
      t.linkMode = .rx ∧ t.rxBuf = List.replicate s.params.rxBufLen 0x00 ∧ HeaderDrawn s.rxDraws t ∧
      Settled t rest lines ∧ t.faulted = false ∧ t.retries = reads.length - 2 ∧
      t.trace = s.trace ++ rxEntered s.params m₁ m₂ m₃ ++ samples (List.replicate i false ++ [true]) ++
        countReads s.params reads ++ statusRead s.params s.params.addrMarcstate z m ++
        transaction (burstReadFrame s.params (r.length + 1)) (w :: l :: r) ++ rxEntered s.params d₁ d₂ d₃

/-- R284, R285: a frame that passes the CRC check, on a chip that does what CHIP_CONFIG_OK says (R372, log 25), and whose
address byte is not LOCAL_ADDR is dropped: ADDRESS_MISMATCH after RX is re-entered, nothing delivered, the outputs
being the draws of entry (R40). -/
def Obligations.ReceiveReportsAddressMismatch : Prop :=
  ∀ (m₁ m₂ m₃ z w c m l a s₁ s₂ d₁ d₂ d₃ : Byte) (reads : List (Byte × Byte)) (payload later image : List Byte)
    (rest : List (List Byte)) (i : Nat) (lines : List Bool) (s : State),
    LinkReady s → s.written.localAddr = true → i < s.params.rxPolls → CountAgreed s.params reads c →
    (c &&& s.params.rxbytesCountMask).toNat = image.length → image.length ≤ s.params.rxBufLen →
    m &&& s.params.marcstateMask ≠ s.params.marcstateOverflow →
    ChipConfigOk.Receiving s.params l a payload s₁ s₂ later true image i s.env.lineTape lines → a ≠ s.localAddr →
    s.env.source = .oracle →
    s.env.busTape = [m₁] :: [m₂] :: [m₃] :: readAnswers reads ++
      [z, m] :: (w :: image) :: [d₁] :: [d₂] :: [d₃] :: rest →
    ∃ t, exec .receive s = .next t ∧ Concludes t .addressMismatch .rAddr .none ∧ t.linkMode = .rx ∧
      OutputsDrawn s.rxDraws t ∧ Settled t rest lines ∧ t.faulted = false ∧ t.retries = reads.length - 2 ∧
      t.trace = s.trace ++ rxEntered s.params m₁ m₂ m₃ ++ samples (List.replicate i false ++ [true]) ++
        countReads s.params reads ++ statusRead s.params s.params.addrMarcstate z m ++
        transaction (burstReadFrame s.params image.length) (w :: image) ++ rxEntered s.params d₁ d₂ d₃

/-- R271, R289: with no packet within RX_POLLS samples RECEIVE reports RX_TIMEOUT, LINK_MODE RX, with no further bus
activity; the outputs are the draws of entry (R40). -/
def Obligations.ReceiveTimesOut : Prop :=
  ∀ (m₁ m₂ m₃ : Byte) (rest : List (List Byte)) (lines : List Bool) (s : State), LinkReady s →
    Settled s ([m₁] :: [m₂] :: [m₃] :: rest) (List.replicate s.params.rxPolls false ++ lines) →
    ∃ t, exec .receive s = .next t ∧ Concludes t .rxTimeout .rWait .none ∧ t.linkMode = .rx ∧
      OutputsDrawn s.rxDraws t ∧ Settled t rest lines ∧
      t.trace = s.trace ++ rxEntered s.params m₁ m₂ m₃ ++ samples (List.replicate s.params.rxPolls false)

/-- R276, R277: the count is re-read until two consecutive reads agree as whole bytes, at most COUNT_AGREE_RETRIES more
times: with 2 + COUNT_AGREE_RETRIES reads of which no two consecutive ones agree, RECEIVE ends in RX_TIMEOUT /
COUNT_UNSTABLE at the last of them, the outputs being the draws of entry; with reads that agree on c, whatever the
environment answers next, RECEIVE ends there when c masks to 0, and reads MARCSTATE next when
it does not. -/
def Obligations.CountIsDebounced : Prop :=
  ∀ (m₁ m₂ m₃ : Byte) (reads : List (Byte × Byte)) (rest : List (List Byte)) (i : Nat) (lines : List Bool) (s : State),
    LinkReady s → i < s.params.rxPolls →
    Settled s ([m₁] :: [m₂] :: [m₃] :: readAnswers reads ++ rest) (List.replicate i false ++ true :: lines) →
    ((reads.map Prod.snd).IsChain (· ≠ ·) → reads.length = s.params.countAgreeRetries + 2 →
      ∃ t, exec .receive s = .next t ∧ Concludes t .rxTimeout (countPhase reads.length) .countUnstable ∧
        t.linkMode = .rx ∧ OutputsDrawn s.rxDraws t ∧ Settled t rest lines ∧ t.retries = s.params.countAgreeRetries ∧
        t.trace = s.trace ++ rxEntered s.params m₁ m₂ m₃ ++ samples (List.replicate i false ++ [true]) ++
          countReads s.params reads) ∧
    (∀ c : Byte, CountAgreed s.params reads c →
      ∃ t es, exec .receive s = .next t ∧ t.retries = reads.length - 2 ∧
        t.trace = s.trace ++ rxEntered s.params m₁ m₂ m₃ ++ samples (List.replicate i false ++ [true]) ++
          countReads s.params reads ++ es ∧
        (c &&& s.params.rxbytesCountMask = 0 → es = []) ∧
        (c &&& s.params.rxbytesCountMask ≠ 0 → ∃ miso es',
          es = transaction (statusFrame s.params s.params.addrMarcstate) miso ++ es'))

/-! ### Link quality -/

/-- R342, R343: SIGNAL_STRENGTH reads RSSI and writes LQ_RAW, LQ_DBM and LQ_CLASS, in every LINK_MODE; a short read changes
none of them. -/
def Obligations.SignalStrengthCompletes : Prop :=
  ∀ (miso : List Byte) (e : Env) (s : State), LinkReady s →
    s.busAnswer (statusFrame s.params s.params.addrRssi) = (miso, e) →
    (∀ m v, miso = [m, v] →
      ∃ d : Int, d = Int.tdiv v.toInt 2 - s.params.rssiOffset ∧
      exec .signalStrength s = .next { s with
        cs := true, env := e, trace := s.trace ++ statusRead s.params s.params.addrRssi m v
        lqRaw := v, lqDbm := d
        lqClass := if d < s.params.rssiVeryWeakBelow then .veryWeak
          else if d < s.params.rssiStrongFrom then .moderate else .strong
        written := { s.written with lqRaw := true, lqDbm := true, lqClass := true }
        outcome := .ok, detail := ⟨.qRead, .none⟩, phase := .none, busy := false, reply := .outcome
        polls := 0, retries := 0 }) ∧
    (miso.length < 2 →
      exec .signalStrength s = .next { s with
        cs := true, env := e, trace := s.trace ++ transaction (statusFrame s.params s.params.addrRssi) miso
        outcome := .busFault, detail := ⟨.qRead, .none⟩, phase := .none, busy := false, reply := .outcome
        polls := 0, retries := 0 })

/-- R340: RSSI_DECODE writes LQ_DBM with tdiv(v - 256, 2) - RSSI_OFFSET for v >= 128 and tdiv(v, 2) - RSSI_OFFSET otherwise;
with RSSI_OFFSET = 74 that is in -138..-11. -/
def Obligations.RssiDecodeCompletes : Prop :=
  ∀ (v : Byte) (s : State), HostReady s →
    ∃ d : Int, (128 ≤ v.toNat → d = Int.tdiv ((v.toNat : Int) - 256) 2 - s.params.rssiOffset) ∧
      (v.toNat < 128 → d = Int.tdiv (v.toNat : Int) 2 - s.params.rssiOffset) ∧
      (s.params.rssiOffset = 74 → -138 ≤ d ∧ d ≤ -11) ∧
      exec (.rssiDecode v) s = .next { s with
        lqDbm := d, written := { s.written with lqDbm := true }
        outcome := .ok, detail := ⟨.none, .none⟩, phase := .none, busy := false, reply := .outcome
        polls := 0, retries := 0 }

/-- R341: CLASSIFY writes LQ_CLASS: VERY_WEAK below RSSI_VERY_WEAK_BELOW, MODERATE from there below RSSI_STRONG_FROM, STRONG
otherwise, for every signed 16-bit d; at R7's values, VERY_WEAK below -100, MODERATE for -100 <= d <= -71, STRONG from
-70. -/
def Obligations.ClassifyCompletes : Prop :=
  ∀ (d : BitVec 16) (s : State), HostReady s →
    ∃ c : LqClass, (d.toInt < s.params.rssiVeryWeakBelow → c = .veryWeak) ∧
      (s.params.rssiVeryWeakBelow ≤ d.toInt → d.toInt < s.params.rssiStrongFrom → c = .moderate) ∧
      (s.params.rssiVeryWeakBelow ≤ d.toInt → s.params.rssiStrongFrom ≤ d.toInt → c = .strong) ∧
      (s.params.rssiVeryWeakBelow = -100 → s.params.rssiStrongFrom = -70 →
        (c = .veryWeak ↔ d.toInt < -100) ∧ (c = .moderate ↔ -100 ≤ d.toInt ∧ d.toInt ≤ -71) ∧
        (c = .strong ↔ -70 ≤ d.toInt)) ∧
      exec (.classify d) s = .next { s with
        lqClass := c, written := { s.written with lqClass := true }
        outcome := .ok, detail := ⟨.none, .none⟩, phase := .none, busy := false, reply := .outcome
        polls := 0, retries := 0 }

/-! ### Bus commands -/

/-- R125, R160: a BUS write command is one transaction of its frame; it changes CS, the trace and the environment and
leaves PHASE, BUSY and OUTCOME to the operation it belongs to (log 13). -/
def Obligations.BusWritesComplete : Prop :=
  ∀ (i : Instr) (mosi miso : List Byte) (e : Env) (s : State), CommandReady s →
    ((∃ a v, i = .busWriteSingle a v ∧ ConfigRange s.params a ∧ mosi = [a.setWidth 8, v]) ∨
     (∃ a d, i = .busWriteBurst a d ∧ 1 ≤ d.length ∧ d.length ≤ s.params.fifoSize ∧ BurstRange s.params a d.length ∧
       mosi = (0x40 ||| a.setWidth 8) :: d) ∨
     (∃ d, i = .busFifoWrite d ∧ 1 ≤ d.length ∧ d.length ≤ s.params.fifoSize ∧
       mosi = (0x40 ||| s.params.addrFifo.setWidth 8) :: d)) →
    s.busAnswer mosi = (miso, e) → miso.length = mosi.length →
    exec i s = .next { s with cs := true, env := e, trace := s.trace ++ transaction mosi miso }

/-- R125, R130, R160: a BUS read command is one transaction of its frame, whose MISO bytes after the first it returns
(log 13). -/
def Obligations.BusReadsComplete : Prop :=
  ∀ (i : Instr) (mosi d : List Byte) (m₀ : Byte) (e : Env) (s : State), CommandReady s →
    ((∃ a, i = .busReadSingle a ∧ ConfigRange s.params a ∧ mosi = [0x80 ||| a.setWidth 8, s.params.dummyByte]) ∨
     (∃ a, i = .busReadStatus a ∧ StatusRange s.params a ∧ mosi = statusFrame s.params a) ∨
     (∃ a n, i = .busReadBurst a n ∧ 1 ≤ n ∧ n ≤ s.params.fifoSize ∧ BurstRange s.params a n ∧
       mosi = (0xC0 ||| a.setWidth 8) :: List.replicate n s.params.dummyByte) ∨
     (∃ n, i = .busFifoRead n ∧ 1 ≤ n ∧ n ≤ s.params.fifoSize ∧ mosi = burstReadFrame s.params n) ∨
     (i = .busReadRssi ∧ mosi = statusFrame s.params s.params.addrRssi) ∨
     (i = .busReadMarcstate ∧ mosi = statusFrame s.params s.params.addrMarcstate) ∨
     (i = .busReadRxbytes ∧ mosi = statusFrame s.params s.params.addrRxbytes)) →
    s.busAnswer mosi = (m₀ :: d, e) → d.length + 1 = mosi.length →
    exec i s = .next { s with
      cs := true, env := e, trace := s.trace ++ transaction mosi (m₀ :: d), busData := d }

/-- R128, R200, R209: a BUS strobe is one transaction of its code; SIDLE, STX and SRX set LINK_MODE and the flushes leave
it, in every LINK_MODE; SRES, which needs no earlier RESET, completes into RESET's settle wait (log 12). -/
def Obligations.BusStrobesComplete : Prop :=
  (∀ (i : Instr) (code m : Byte) (mode : LinkMode) (e : Env) (s : State), CommandReady s →
    (i, code, mode) ∈ [(Instr.busSidle, s.params.codeSidle, LinkMode.idle), (.busStx, s.params.codeStx, .tx),
      (.busSrx, s.params.codeSrx, .rx), (.busSftx, s.params.codeSftx, s.linkMode),
      (.busSfrx, s.params.codeSfrx, s.linkMode)] →
    s.busAnswer [code] = ([m], e) →
    exec i s = .next { s with
      cs := true, env := e, trace := s.trace ++ [.csLow, .xchg code m, .csHigh], linkMode := mode }) ∧
  (∀ (m : Byte) (e : Env) (s : State), s.faulted = false → s.phase ≠ .rstSettle →
    s.busAnswer [s.params.codeSres] = ([m], e) →
    exec .busSres s = .next { s with
      cs := true, env := e, trace := s.trace ++ [.csLow, .xchg s.params.codeSres m, .csHigh]
      busy := true, phase := .rstSettle })

/-- R209, R210: RESET is the CS pulse, then BUS.SRES, which completes into the settle wait with BUSY 1, then the step in
which that wait ends; where the SRES transfer is short, RESET ends as BUS.SRES does (log 12). -/
def Obligations.ResetIsPulseSresSettle : Prop :=
  ∀ (e : Env) (s pulsed : State), HostReady s → s.phase = .none → s.busIn = [] → s.hostIn = [] →
    pulsed = { s with cs := true, trace := s.trace ++ [.csLow, .csHigh], polls := 0, retries := 0 } →
    (∀ m, s.busAnswer [s.params.codeSres] = ([m], e) →
      ∃ u, exec .busSres pulsed = .next u ∧
        u = { pulsed with
          env := e, trace := pulsed.trace ++ [.csLow, .xchg s.params.codeSres m, .csHigh]
          busy := true, phase := .rstSettle } ∧
        step u = exec .reset s) ∧
    (s.busAnswer [s.params.codeSres] = ([], e) → exec .busSres pulsed = exec .reset s)

/-- R160, R162: a BUS command other than SRES whose transfer is short raises BUS_FAULT at the phase it was issued in, with
LINK_MODE and the returned data as they were. -/
def Obligations.ShortBusCommandFaults : Prop :=
  ∀ (i : Instr) (miso : List Byte) (e : Env) (s : State), CommandReady s → i.isBus = true → i ≠ .busSres →
    Admitted s.params i → s.busAnswer (encode s.params i) = (miso, e) → miso.length < (encode s.params i).length →
    exec i s = .next { s with
      cs := true, env := e, trace := s.trace ++ transaction (encode s.params i) miso
      outcome := .busFault, detail := ⟨s.phase, .none⟩, phase := .none, busy := false, reply := .outcome }

/-! ### Frames: what an operation leaves unchanged (R52) -/

/-- R52, R102: WREG and WBURST write no column but CS, RREG, RSTATUS and RBURST also RD_DATA; a write changes no
configuration register of the reference chip outside those it names, and a read none. -/
def Obligations.RegisterAccessFrame : Prop :=
  ∀ s t : State,
    (∀ a v, exec (.wreg a v) s = .next t →
      WritesOnly [.cs, .counters, .environment] s t ∧ SameMemoryOutside [a.toNat] s t) ∧
    (∀ a d, exec (.wburst a d) s = .next t →
      WritesOnly [.cs, .counters, .environment] s t ∧
      SameMemoryOutside (if a = s.params.addrFifo then [] else List.range' a.toNat d.length) s t) ∧
    (∀ a n i, (i = .rreg a ∨ i = .rstatus a ∨ i = .rburst a n) → exec i s = .next t →
      WritesOnly [.cs, .rdData, .counters, .environment] s t ∧ SameMemoryOutside [] s t)

/-- R52: STROBE writes no column but LINK_MODE and CS, RESET also INITIALISED and CONFIGURED, CONFIGURE only LOCAL_ADDR, CS
and CONFIGURED; STROBE changes no configuration register of the reference chip, CONFIGURE none outside its image. -/
def Obligations.StrobeResetConfigureFrame : Prop :=
  ∀ s t : State,
    (∀ code, exec (.strobe code) s = .next t →
      WritesOnly [.linkMode, .cs, .counters, .environment] s t ∧ SameMemoryOutside [] s t) ∧
    (exec .reset s = .next t → WritesOnly [.linkMode, .cs, .initialised, .configured, .counters, .environment] s t) ∧
    (∀ la image, exec (.configure la image) s = .next t →
      WritesOnly [.localAddr, .cs, .configured, .counters, .environment] s t ∧
      SameMemoryOutside (image.map fun p => p.1.toNat) s t)

/-- R52: BUILD_FRAME writes only TX_FRAME and TX_FRAME_LEN, PARSE_FRAME only PF_*, RSSI_DECODE only LQ_DBM, CLASSIFY only
LQ_CLASS; none touches the bus or the environment. -/
def Obligations.PureOperationFrame : Prop :=
  ∀ s t : State,
    (∀ dest p, exec (.buildFrame dest p) s = .next t → WritesOnly [.txFrame, .counters] s t) ∧
    (∀ r, exec (.parseFrame r) s = .next t → WritesOnly [.pf, .counters] s t) ∧
    (∀ v, exec (.rssiDecode v) s = .next t → WritesOnly [.lqDbm, .counters] s t) ∧
    (∀ d, exec (.classify d) s = .next t → WritesOnly [.lqClass, .counters] s t)

/-- R52: SEND writes no column but LINK_MODE, CS, TX_FRAME and TX_FRAME_LEN; RECEIVE none but LINK_MODE, CS and RX_*;
SIGNAL_STRENGTH none but CS and LQ_*; none changes a configuration register of the reference chip. -/
def Obligations.LinkOperationFrame : Prop :=
  ∀ s t : State,
    (∀ dest p, exec (.send dest p) s = .next t →
      WritesOnly [.linkMode, .cs, .txFrame, .counters, .environment] s t ∧ SameMemoryOutside [] s t) ∧
    (exec .receive s = .next t →
      WritesOnly [.linkMode, .cs, .rx, .counters, .environment] s t ∧ SameMemoryOutside [] s t) ∧
    (exec .signalStrength s = .next t →
      WritesOnly [.cs, .lqRaw, .lqDbm, .lqClass, .counters, .environment] s t ∧ SameMemoryOutside [] s t)

/-- R160, R200: a BUS command writes no register but CS, a strobe also LINK_MODE, SRES also INITIALISED and CONFIGURED, a
read also the bytes it returns; only the write commands change configuration registers of the reference chip, and
only those they name. -/
def Obligations.BusCommandFrame : Prop :=
  ∀ s t : State,
    (∀ a v, exec (.busWriteSingle a v) s = .next t →
      WritesOnly [.cs, .environment] s t ∧ SameMemoryOutside [a.toNat] s t) ∧
    (∀ a d, exec (.busWriteBurst a d) s = .next t →
      WritesOnly [.cs, .environment] s t ∧
      SameMemoryOutside (if a = s.params.addrFifo then [] else List.range' a.toNat d.length) s t) ∧
    (∀ d, exec (.busFifoWrite d) s = .next t → WritesOnly [.cs, .environment] s t ∧ SameMemoryOutside [] s t) ∧
    (∀ a n i, i ∈ [Instr.busReadSingle a, .busReadStatus a, .busReadBurst a n, .busFifoRead n, .busReadRssi,
        .busReadMarcstate, .busReadRxbytes] → exec i s = .next t →
      WritesOnly [.cs, .busData, .environment] s t ∧ SameMemoryOutside [] s t) ∧
    (∀ i, i ∈ [Instr.busSidle, .busStx, .busSrx, .busSftx, .busSfrx] → exec i s = .next t →
      WritesOnly [.linkMode, .cs, .environment] s t ∧ SameMemoryOutside [] s t) ∧
    (exec .busSres s = .next t → WritesOnly [.cs, .initialised, .configured, .environment] s t ∧ SameMemoryOutside [] s t)

/-! ### Whole-machine rules -/

/-- R294: every RECEIVE that executes and does not end in BUS_FAULT ends with LINK_MODE = RX. -/
def Obligations.ReceiveEndsInRx : Prop :=
  ∀ s t : State, BlockInv s → LinkReady s → exec .receive s = .next t → t.outcome ≠ .busFault → t.linkMode = .rx

/-- R90, R92, R456: every step only appends to the trace, and what it appends is properly framed by chip-select. -/
def Obligations.TraceStaysFramed : Prop :=
  ∀ s t : State, framedFrom false s.trace = true → step s = .next t →
    (∃ es, t.trace = s.trace ++ es) ∧ framedFrom false t.trace = true

/-- R211, R454: every flush SEND or RECEIVE issues comes after a SIDLE of the same operation with no STX or SRX between,
where the strobe codes are told apart on the trace (D3, R126, log 24). -/
def Obligations.FlushesFollowSidle : Prop :=
  ∀ (i : Instr) (s t : State), s.params.Distinct → (i = .receive ∨ ∃ dest p, i = .send dest p) → exec i s = .next t →
    ∃ es, t.trace = s.trace ++ es ∧ flushesAfterIdle s.params false false es = true

/-- R295: SEND issues at most 8 transactions, at most 6 when RX_AFTER_TX is 0, and at most TX_START_POLLS + TX_END_POLLS
samples; RECEIVE at most 10 + COUNT_AGREE_RETRIES transactions and RX_POLLS samples; in every state and whatever the
environment answers. -/
def Obligations.LinkOperationsAreBounded : Prop :=
  (∀ (dest : Byte) (p : List Byte) (s t : State), exec (.send dest p) s = .next t →
    ∃ es, t.trace = s.trace ++ es ∧ transactionCount es ≤ (if s.params.rxAfterTx then 8 else 6) ∧
      sampleCount es ≤ s.params.txStartPolls + s.params.txEndPolls) ∧
  (∀ s t : State, exec .receive s = .next t →
    ∃ es, t.trace = s.trace ++ es ∧ transactionCount es ≤ 10 + s.params.countAgreeRetries ∧
      sampleCount es ≤ s.params.rxPolls)

/-- R288: where SEND or RECEIVE ends in BUS_FAULT, the last thing on the trace is the frame it sends at DETAIL's phase, cut
short, and nothing follows it; DETAIL has no sub-reason; LINK_MODE is what it was before that transaction. The burst
read's frame is that of the count just read. After a RECEIVE the outputs are the draws of entry (R40), but for the zeros
that CrcDiscard's Resume keeps in RX_BUF. That they are also the draws of entry where the short transaction is in the
Resume of a frame that passed both checks is the model's reading of R40 and D26 against R275, R286 and R405 (log 14). -/
def Obligations.LinkBusFaultIsLast : Prop :=
  ∀ (i : Instr) (s t : State), BlockInv s → LinkReady s → (i = .receive ∨ ∃ dest p, i = .send dest p) →
    exec i s = .next t → t.outcome = .busFault →
    t.detail.sub = .none ∧ t.linkMode = linkModeAt s.linkMode t.detail.phase ∧
    (∃ es mosi miso count, linkFrame s.params count i t.detail.phase = some mosi ∧ miso.length < mosi.length ∧
      t.trace = s.trace ++ es ++ transaction mosi miso ∧ framedFrom false es = true ∧
      (t.detail.phase = .rBurst → ∃ es' x c z m,
        es = es' ++ statusRead s.params s.params.addrRxbytes x c ++ statusRead s.params s.params.addrMarcstate z m ∧
        count = (c &&& s.params.rxbytesCountMask).toNat)) ∧
    (i = .receive → HeaderDrawn s.rxDraws t ∧ (t.rxBuf = drawnBuf s.params.rxBufLen s.rxDraws ∨
      t.detail.phase ∈ [Phase.rResIdle, .rResFlush, .rResSrx] ∧ t.rxBuf = List.replicate s.params.rxBufLen 0x00))

/-- R460: a SEND that executes and reports OK has seen the line asserted and then deasserted before its last strobes: after
the samples 1 .. 1, 0 come SIDLE and the final SFTX, then nothing, or SFRX and SRX with RX_AFTER_TX. -/
def Obligations.CompletionBeforeFlush : Prop :=
  ∀ (dest : Byte) (p : List Byte) (s t : State), LinkReady s → p.length + 2 ≤ s.params.maxFrame →
    exec (.send dest p) s = .next t → t.outcome = .ok →
    ∃ es n m m' later,
      (if s.params.rxAfterTx then ∃ x y, later = strobed s.params.codeSfrx x ++ strobed s.params.codeSrx y else later = []) ∧
      t.trace = s.trace ++ es ++ samples (true :: List.replicate n true ++ [false]) ++
        strobed s.params.codeSidle m ++ strobed s.params.codeSftx m' ++ later

/-- R101, R102: the reference transceiver moves every byte of a transaction, MISO byte 0 being 0x00, and a burst read of
configuration registers returns what a burst write set. -/
def Obligations.ReferenceTransceiverAnswers : Prop :=
  (∀ (p : Params) (c : Chip) (mosi : List Byte), mosi ≠ [] →
    (c.answer p mosi).1.length = mosi.length ∧ (c.answer p mosi).1.head? = some 0x00) ∧
  (∀ (p : Params) (c : Chip) (a : Addr) (d : List Byte), 1 ≤ d.length → d.length ≤ p.fifoSize →
    a.toNat + d.length ≤ p.configLast.toNat + 1 → a ≠ p.addrFifo → ¬ StatusRange p a →
    ((c.answer p ((0x40 ||| a.setWidth 8) :: d)).2.answer p
      ((0xC0 ||| a.setWidth 8) :: List.replicate d.length p.dummyByte)).1 = 0x00 :: d)
end

