-- ==== Sys2Proof/Laws/Encoding.lean ====
section
/-! SUPPORT. The pieces of the two encodings: the command byte and its fields, address and count bytes, and the
splitting of byte sequences, each with its inverse. -/

namespace Sys2Proof

/-! ### The command byte (R120 to R124) -/

@[simp] theorem commandRead_commandByte (r b : Bool) (a : Addr) : commandRead (commandByte r b a) = r := by
  revert r b a; decide

@[simp] theorem commandBurst_commandByte (r b : Bool) (a : Addr) : commandBurst (commandByte r b a) = b := by
  revert r b a; decide

@[simp] theorem commandAddr_commandByte (r b : Bool) (a : Addr) : commandAddr (commandByte r b a) = a := by
  revert r b a; decide

/-- A command byte is its three fields (R124). -/
theorem commandByte_fields (c : Byte) : commandByte (commandRead c) (commandBurst c) (commandAddr c) = c := by
  revert c; decide

/-! ### Addresses and counts -/

@[simp] theorem addressByte_toNat (a : Addr) : (addressByte a).toNat = a.toNat := by
  simp [addressByte]
  omega

@[simp] theorem addressOf_addressByte (a : Addr) : addressOf (addressByte a) = some a := by
  have h : (addressByte a).toNat < 64 := by rw [addressByte_toNat]; exact a.isLt
  rw [addressOf, if_pos h]
  congr 1
  apply BitVec.eq_of_toNat_eq
  simp [addressByte]

theorem addressOf_eq_some {b : Byte} {a : Addr} (h : addressOf b = some a) : b = addressByte a := by
  unfold addressOf at h
  split at h
  · cases h
    apply BitVec.eq_of_toNat_eq
    simp [addressByte]
    omega
  · cases h

theorem addressOf_eq_none {b : Byte} : addressOf b = none ↔ 64 ≤ b.toNat := by
  unfold addressOf
  split <;> simp <;> omega

theorem countByte_toNat {n : Nat} (h : n ≤ 255) : (countByte n).toNat = n := by
  simp [countByte]
  omega

@[simp] theorem countByte_of_toNat (b : Byte) : countByte b.toNat = b := by
  apply BitVec.eq_of_toNat_eq
  simp [countByte]

/-! ### Sequences -/

@[simp] theorem dummies_length (p : Params) (n : Nat) : (dummies p n).length = n := by simp [dummies]

theorem takeBytes_append (d rest : List Byte) : takeBytes d.length (d ++ rest) = some (d, rest) := by
  induction d with
  | nil => rfl
  | cons b d ih => simp [takeBytes, ih]

theorem takeBytes_eq_some {n : Nat} {bs d rest : List Byte} (h : takeBytes n bs = some (d, rest)) :
    bs = d ++ rest ∧ d.length = n := by
  induction n generalizing bs d with
  | zero => cases bs <;> simp_all [takeBytes]
  | succ n ih =>
    cases bs with
    | nil => cases h
    | cons b bs =>
      simp only [takeBytes] at h
      split at h
      · rename_i hd
        cases h
        obtain ⟨rfl, rfl⟩ := ih hd
        exact ⟨rfl, rfl⟩
      · cases h

theorem takeBytes_eq_none {n : Nat} {bs : List Byte} : takeBytes n bs = none ↔ bs.length < n := by
  induction n generalizing bs with
  | zero => cases bs <;> simp [takeBytes]
  | succ n ih =>
    cases bs with
    | nil => simp [takeBytes]
    | cons b bs =>
      simp only [takeBytes, List.length_cons, Nat.add_lt_add_iff_right, ← ih]
      split <;> simp_all

/-- A host encoding's pair list, as byte pairs. -/
def bytePairs (image : List (Addr × Byte)) : List (Byte × Byte) := image.map fun p => (addressByte p.1, p.2)

theorem takePairs_append (image : List (Addr × Byte)) (rest : List Byte) :
    takePairs image.length (encodePairs image ++ rest) = some (bytePairs image, rest) := by
  induction image with
  | nil => rfl
  | cons p image ih =>
    obtain ⟨a, v⟩ := p
    simp [takePairs, encodePairs, bytePairs, ih]

theorem addressPairs_bytePairs (image : List (Addr × Byte)) : addressPairs (bytePairs image) = .ok image := by
  induction image with
  | nil => rfl
  | cons p image ih =>
    obtain ⟨a, v⟩ := p
    have ih' : addressPairs (image.map fun p => (addressByte p.1, p.2)) = .ok image := ih
    simp [addressPairs, bytePairs, ih']

theorem addressPairs_eq_ok {ps : List (Byte × Byte)} {image : List (Addr × Byte)} (h : addressPairs ps = .ok image) :
    ps = bytePairs image := by
  induction ps generalizing image with
  | nil => cases h; rfl
  | cons p ps ih =>
    obtain ⟨b, v⟩ := p
    simp only [addressPairs] at h
    split at h
    · cases h
    · rename_i a ha
      split at h
      · rename_i image' hi
        cases h
        simp [bytePairs, ← addressOf_eq_some ha, ih hi]
      · cases h

theorem takePairs_eq_some {m : Nat} {bs rest : List Byte} {ps : List (Byte × Byte)}
    (h : takePairs m bs = some (ps, rest)) : bs = ps.flatMap (fun p => [p.1, p.2]) ++ rest ∧ ps.length = m := by
  induction m generalizing bs ps with
  | zero => cases bs <;> simp_all [takePairs]
  | succ m ih =>
    match bs with
    | [] => cases h
    | [_] => cases h
    | a :: v :: bs =>
      simp only [takePairs] at h
      split at h
      · rename_i hd
        cases h
        obtain ⟨rfl, rfl⟩ := ih hd
        exact ⟨rfl, rfl⟩
      · cases h

theorem takePairs_eq_none {m : Nat} {bs : List Byte} : takePairs m bs = none ↔ bs.length < 2 * m := by
  induction m generalizing bs with
  | zero => cases bs <;> simp [takePairs]
  | succ m ih =>
    match bs with
    | [] => simp [takePairs]
    | [_] => simp [takePairs]; omega
    | a :: v :: bs =>
      have : takePairs m bs = none ↔ (a :: v :: bs).length < 2 * (m + 1) := by
        rw [ih]
        simp only [List.length_cons]
        omega
      rw [← this]
      simp only [takePairs]
      split <;> simp_all

theorem encodePairs_eq (image : List (Addr × Byte)) :
    encodePairs image = (bytePairs image).flatMap (fun p => [p.1, p.2]) := by
  induction image with
  | nil => rfl
  | cons p image ih =>
    obtain ⟨a, v⟩ := p
    simp [encodePairs, ih, bytePairs]

@[simp] theorem encodePairs_length (image : List (Addr × Byte)) : (encodePairs image).length = 2 * image.length := by
  induction image with
  | nil => rfl
  | cons p image ih =>
    obtain ⟨a, v⟩ := p
    simp [encodePairs, ih]
    omega

end Sys2Proof
end

