-- ==== Sys2Proof/Laws/Operands.lean ====
section
/-! SUPPORT. The operand tests and the frames in the terms claims use. -/

namespace Sys2Proof.Machine

@[simp] theorem isConfigAddr_iff {p : Params} {a : Addr} : isConfigAddr p a = true ↔ ConfigRange p a := by
  simp [isConfigAddr, ConfigRange, BitVec.le_def]

@[simp] theorem isStatusRegister_iff {p : Params} {a : Addr} : isStatusRegister p a = true ↔ StatusRange p a := by
  simp [isStatusRegister, StatusRange, BitVec.le_def]

@[simp] theorem burstLengthBad_iff {p : Params} {n : Nat} : burstLengthBad p n = true ↔ n = 0 ∨ p.fifoSize < n := by
  simp [burstLengthBad]

@[simp] theorem burstAddrOk_iff {p : Params} {a : Addr} {n : Nat} : burstAddrOk p a n = true ↔ BurstRange p a n := by
  have h : (burstLengthBad p n = true ∨ a.toNat + n ≤ p.configLast.toNat + 1) ↔
      (1 ≤ n ∧ n ≤ p.fifoSize → a.toNat + n ≤ p.configLast.toNat + 1) := by
    rw [burstLengthBad_iff]
    omega
  simp only [burstAddrOk, Bool.or_eq_true, Bool.and_eq_true, decide_eq_true_eq, beq_iff_eq, isConfigAddr_iff, h,
    BurstRange]

@[simp] theorem busBurstOk_iff {p : Params} {a : Addr} {n : Nat} :
    busBurstOk p a n = true ↔ (1 ≤ n ∧ n ≤ p.fifoSize) ∧ BurstRange p a n := by
  have h : (!burstLengthBad p n) = true ↔ 1 ≤ n ∧ n ≤ p.fifoSize := by
    rw [Bool.not_eq_true', ← Bool.not_eq_true, burstLengthBad_iff]
    omega
  simp only [busBurstOk, Bool.and_eq_true, h, burstAddrOk_iff]

@[simp] theorem busBurstOk_fifo {p : Params} {n : Nat} :
    busBurstOk p p.addrFifo n = true ↔ 1 ≤ n ∧ n ≤ p.fifoSize := by
  rw [busBurstOk_iff]
  exact and_iff_left (.inl rfl)

@[simp] theorem imageOk_iff {p : Params} {image : List (Addr × Byte)} :
    imageOk p image = true ↔ ∀ x ∈ image, ConfigRange p x.1 := by
  simp [imageOk]

@[simp] theorem frameMalformed_iff {r : List Byte} : frameMalformed r = true ↔
    r.length < 2 ∨ (byteAt r 0).toNat = 0 ∨ r.length < (byteAt r 0).toNat + 1 := by
  simp [frameMalformed, or_assoc]

@[simp] theorem imageMalformed_iff {r : List Byte} {n : Nat} : imageMalformed r n = true ↔
    (byteAt r 0).toNat = 0 ∨ n < (byteAt r 0).toNat + 3 := by
  simp [imageMalformed]

@[simp] theorem payloadTooLarge_iff {m : Nat} {p : List Byte} :
    payloadTooLarge m p = true ↔ m < p.length + 2 := by
  simp [payloadTooLarge]

/-- STROBE's five codes (R203). -/
theorem Strobe.ofCode_eq_none {p : Params} {c : Byte} :
    Strobe.ofCode p c = none ↔ c ∉ [p.codeSidle, p.codeSftx, p.codeSfrx, p.codeStx, p.codeSrx] := by
  simp only [Strobe.ofCode, List.mem_cons, List.not_mem_nil, or_false, not_or]
  repeat' split
  all_goals simp_all

/-- The code of the strobe a byte names is that byte. -/
theorem Strobe.code_ofCode {p : Params} {c : Byte} {k : Strobe} (h : Strobe.ofCode p c = some k) : k.code p = c := by
  simp only [Strobe.ofCode] at h
  repeat' split at h
  all_goals first | cases h; symm; assumption | cases h

/-- Where the codes differ, a strobe is named by its code (D3). -/
theorem Strobe.ofCode_code {p : Params} (h : p.Distinct) (k : Strobe) : Strobe.ofCode p (k.code p) = some k := by
  have hd := h.1
  simp only [List.nodup_cons, List.mem_cons, List.not_mem_nil, or_false, not_or] at hd
  cases k <;> simp [Strobe.ofCode, Strobe.code, hd]

/-- A byte that is SFTX's or SFRX's code names a flush (R202). -/
theorem Strobe.ofCode_flush {p : Params} {c : Byte} (h : c = p.codeSftx ∨ c = p.codeSfrx) :
    ∃ k, Strobe.ofCode p c = some k ∧ Strobe.isFlush k = true := by
  unfold Strobe.ofCode
  by_cases h₁ : c = p.codeSftx
  · exact ⟨.sftx, by rw [if_pos h₁], rfl⟩
  · exact ⟨.sfrx, by rw [if_neg h₁, if_pos (h.resolve_left h₁)], rfl⟩

theorem commandByte_write (a : Addr) : commandByte false false a = a.setWidth 8 := by
  simp [commandByte]

theorem commandByte_writeBurst (a : Addr) : commandByte false true a = 0x40 ||| a.setWidth 8 := by
  simp [commandByte]

theorem commandByte_read (a : Addr) : commandByte true false a = 0x80 ||| a.setWidth 8 := by
  simp [commandByte]

theorem commandByte_readBurst (a : Addr) : commandByte true true a = 0xC0 ||| a.setWidth 8 := by
  simp [commandByte]

theorem transactionEvents_eq (mosi miso : List Byte) : transactionEvents mosi miso = transaction mosi miso := by
  simp [transactionEvents, transaction, List.zip_eq_zipWith, List.map_zipWith]

end Sys2Proof.Machine
end

