-- ==== Sys2Proof/Laws/Memory.lean ====
section
/-! SUPPORT. Addressed memory: a read after a write, and that every operation keeps the canonical form; then the
reference transceiver, whose CREG is the model's one memory. -/

namespace Sys2Proof.Machine

@[simp] theorem Memory.read_nil (a : Nat) : Memory.read [] a = none := rfl

theorem Memory.read_write_same (m : Memory) (a : Nat) (v : Byte) :
    Memory.read (Memory.write m a v) a = some v := by
  induction m with
  | nil => simp [Memory.write, Memory.read]
  | cons c m ih =>
    obtain ⟨b, w⟩ := c
    simp only [Memory.write]
    split
    · simp [Memory.read]
    · split
      · simp [Memory.read]
      · rename_i h₁ h₂
        simp [Memory.read, h₂, ih]

theorem Memory.read_write_other (m : Memory) {a x : Nat} (v : Byte) (h : x ≠ a) :
    Memory.read (Memory.write m a v) x = Memory.read m x := by
  induction m with
  | nil => simp [Memory.write, Memory.read, h]
  | cons c m ih =>
    obtain ⟨b, w⟩ := c
    simp only [Memory.write]
    split
    · simp [Memory.read, h]
    · split
      · rename_i _ hab
        subst hab
        simp [Memory.read, h]
      · simp only [Memory.read]
        split <;> simp [ih]

theorem Memory.mem_write {m : Memory} {a : Nat} {v : Byte} {c : Host.Cell} (h : c ∈ Memory.write m a v) :
    c = (a, v) ∨ c ∈ m := by
  induction m with
  | nil => simpa [Memory.write] using h
  | cons d m ih =>
    obtain ⟨b, w⟩ := d
    simp only [Memory.write] at h
    split at h
    · simpa using h
    · split at h
      · rcases List.mem_cons.1 h with h | h
        · exact .inl h
        · exact .inr (List.mem_cons_of_mem _ h)
      · rcases List.mem_cons.1 h with h | h
        · exact .inr (h ▸ List.mem_cons_self)
        · exact (ih h).imp_right (List.mem_cons_of_mem _)

theorem Memory.write_wf {m : Memory} {a : Nat} (v : Byte) (hm : Memory.wf m)
    (ha : a < 64) : Memory.wf (Memory.write m a v) := by
  refine ⟨?_, fun c hc => ?_⟩
  · obtain ⟨hp, hr⟩ := hm
    clear hr
    induction m with
    | nil => simp [Memory.write]
    | cons d m ih =>
      obtain ⟨b, w⟩ := d
      obtain ⟨hb, hp'⟩ := List.pairwise_cons.1 hp
      simp only [Memory.write]
      split
      · rename_i hab
        refine List.pairwise_cons.2 ⟨fun c hc => ?_, hp⟩
        rcases List.mem_cons.1 hc with rfl | hc
        · exact hab
        · exact Nat.lt_trans hab (hb c hc)
      · split
        · rename_i _ hab
          subst hab
          exact List.pairwise_cons.2 ⟨hb, hp'⟩
        · rename_i h₁ h₂
          refine List.pairwise_cons.2 ⟨fun c hc => ?_, ih hp'⟩
          rcases Memory.mem_write hc with rfl | hc
          · show b < a
            omega
          · exact hb c hc
  · rcases Memory.mem_write hc with rfl | hc
    · exact ha
    · exact hm.2 c hc

theorem Memory.nil_wf : Memory.wf [] := by simp [Memory.wf]

/-! ### The reference transceiver -/

/-- What every operation of the reference chip keeps: a canonical CREG of configuration registers, and FIFOs within
capacity (R100). -/
abbrev Chip.Ok (p : Params) (c : Chip) : Prop :=
  Memory.wf c.creg ∧ (∀ x ∈ c.creg, x.1 ≤ p.configLast.toNat) ∧
  c.txFifo.length ≤ p.fifoSize ∧ c.rxFifo.length ≤ p.fifoSize

variable {p : Params}

theorem Chip.powerOn_ok : Chip.Ok p Chip.powerOn := by simp [Chip.Ok, Chip.powerOn, Memory.wf]

theorem Chip.writeRegisters_ok {c : Chip} (h : c.Ok p) (a : Nat) (d : List Byte) : (c.writeRegisters p a d).Ok p := by
  induction d generalizing c a with
  | nil => exact h
  | cons v d ih =>
    simp only [Chip.writeRegisters]
    split
    · rename_i ha
      refine ih (c := { c with creg := Memory.write c.creg a v })
        ⟨Memory.write_wf v h.1 (Nat.lt_of_le_of_lt ha p.configLast.isLt), fun x hx => ?_, h.2.2⟩ (a + 1)
      rcases Memory.mem_write hx with rfl | hx
      · exact ha
      · exact h.2.1 x hx
    · exact h

/-- A register write leaves every address outside the burst. -/
theorem Chip.writeRegisters_read_outside {c : Chip} {a x : Nat} {d : List Byte} (h : x < a ∨ a + d.length ≤ x) :
    Memory.read (c.writeRegisters p a d).creg x = Memory.read c.creg x := by
  induction d generalizing c a with
  | nil => rfl
  | cons v d ih =>
    simp only [List.length_cons] at h
    simp only [Chip.writeRegisters]
    split
    · rw [ih (by omega)]
      exact Memory.read_write_other _ _ (by omega)
    · rfl

theorem Chip.fifoWrite_ok {c : Chip} (h : c.Ok p) (d : List Byte) : (c.fifoWrite p d).Ok p :=
  ⟨h.1, h.2.1, List.length_take_le _ _, h.2.2.2⟩

theorem Chip.fifoRead_ok {c : Chip} (h : c.Ok p) (n : Nat) : (c.fifoRead n).2.Ok p :=
  ⟨h.1, h.2.1, h.2.2.1, by simpa [Chip.fifoRead] using Nat.le_trans (Nat.sub_le _ _) h.2.2.2⟩

theorem Chip.statusRead_ok {c : Chip} (h : c.Ok p) (a : Addr) : (c.statusRead p a).2.Ok p := by
  unfold Chip.statusRead
  split
  · exact h
  split
  · exact h
  split
  · cases c.rssiScript <;> exact h
  · exact h

theorem Chip.strobe_ok {c : Chip} (h : c.Ok p) (s : Strobe) : (c.strobe s).Ok p := by
  cases s <;> simp only [Chip.strobe]
  case sidle => exact h
  case sftx => split; exacts [⟨h.1, h.2.1, by simp, h.2.2.2⟩, h]
  case sfrx => split; exacts [⟨h.1, h.2.1, h.2.2.1, by simp⟩, h]
  case stx => exact h
  case srx => split <;> exact h

theorem Chip.transact_ok {c : Chip} (h : c.Ok p) (mosi : List Byte) : (c.transact p mosi).2.Ok p := by
  unfold Chip.transact
  cases decodeBus p mosi with
  | rejected why => exact h
  | instr i =>
    cases i
    case busWriteSingle a v => exact Chip.writeRegisters_ok h _ _
    case busWriteBurst a d => exact Chip.writeRegisters_ok h _ _
    case busFifoWrite d => exact Chip.fifoWrite_ok h _
    case busFifoRead n => exact Chip.fifoRead_ok h _
    case busReadStatus a => exact Chip.statusRead_ok h _
    case busReadRssi => exact Chip.statusRead_ok h _
    case busReadMarcstate => exact Chip.statusRead_ok h _
    case busReadRxbytes => exact Chip.statusRead_ok h _
    case busSrx => exact Chip.strobe_ok h .srx
    case busStx => exact Chip.strobe_ok h .stx
    case busSidle => exact Chip.strobe_ok h .sidle
    case busSfrx => exact Chip.strobe_ok h .sfrx
    case busSftx => exact Chip.strobe_ok h .sftx
    all_goals exact h

theorem Chip.arrive_ok {c : Chip} (h : c.Ok p) (f : ScriptedFrame) (later : List ScriptedFrame) :
    (c.arrive p f later).Ok p := ⟨h.1, h.2.1, h.2.2.1, List.length_take_le _ _⟩

/-- What a moment can do (R106): nothing; in RX, the next frame arrives, or waits one moment less. -/
theorem Chip.listen_cases (p : Params) (c : Chip) :
    c.listen p = c ∨ c.cmode = .rx ∧ ∃ f later, c.frames = f :: later ∧
      (f.wait = 0 ∧ c.listen p = c.arrive p f later ∨
        0 < f.wait ∧ c.listen p = { c with frames := { f with wait := f.wait - 1 } :: later }) := by
  unfold Chip.listen
  split
  · rename_i f later hm hf
    split
    · rename_i hw
      exact .inr ⟨hm, f, later, hf, .inl ⟨hw, rfl⟩⟩
    · rename_i n hw
      exact .inr ⟨hm, f, later, hf, .inr ⟨by omega, by simp [hw]⟩⟩
  · exact .inl rfl

/-- Outside RX no frame arrives. -/
theorem Chip.listen_not_rx {c : Chip} (h : c.cmode ≠ .rx) : c.listen p = c :=
  (Chip.listen_cases p c).resolve_right fun ⟨hr, _⟩ => h hr

@[simp] theorem Chip.listen_creg (p : Params) (c : Chip) : (c.listen p).creg = c.creg := by
  obtain h | ⟨_, f, later, _, ⟨_, h⟩ | ⟨_, h⟩⟩ := Chip.listen_cases p c <;> simp [h, Chip.arrive]

@[simp] theorem Chip.listen_era (p : Params) (c : Chip) : (c.listen p).era = c.era := by
  obtain h | ⟨_, f, later, _, ⟨_, h⟩ | ⟨_, h⟩⟩ := Chip.listen_cases p c <;> simp [h, Chip.arrive]

theorem Chip.listen_ok {c : Chip} (h : c.Ok p) : (c.listen p).Ok p := by
  obtain h' | ⟨_, f, later, _, ⟨_, h'⟩ | ⟨_, h'⟩⟩ := Chip.listen_cases p c <;> rw [h']
  exacts [h, Chip.arrive_ok h f later, h]

theorem Chip.answer_ok {c : Chip} (h : c.Ok p) (mosi : List Byte) : (c.answer p mosi).2.Ok p :=
  Chip.transact_ok (Chip.listen_ok h) mosi

theorem Chip.readLine_ok {c : Chip} (h : c.Ok p) : c.readLine.2.Ok p := by
  unfold Chip.readLine
  split
  exacts [h, ⟨h.1, h.2.1, by simp, h.2.2.2⟩, h]

theorem Chip.sample_ok {c : Chip} (h : c.Ok p) : (c.sample p).2.Ok p := Chip.readLine_ok (Chip.listen_ok h)

theorem Chip.afterSres_ok (c : Chip) : c.afterSres.Ok p := by simp [Chip.Ok, Chip.afterSres, Memory.wf]

/-! ### The environment -/

theorem Env.busAnswer_ok {e : Env} (h : e.chip.Ok p) (mosi : List Byte) : (e.busAnswer p mosi).2.chip.Ok p := by
  unfold Env.busAnswer
  cases e.source with
  | oracle => cases e.busTape <;> exact h
  | reference => exact Chip.answer_ok h mosi

theorem Env.lineAnswer_ok {e : Env} (h : e.chip.Ok p) : (e.lineAnswer p).2.chip.Ok p := by
  unfold Env.lineAnswer
  cases e.source with
  | oracle => cases e.lineTape <;> exact h
  | reference => exact Chip.sample_ok h

theorem Env.settled_ok {e : Env} (h : e.chip.Ok p) : e.settled.chip.Ok p := by
  unfold Env.settled
  cases e.source with
  | oracle => exact h
  | reference => exact Chip.afterSres_ok _

/-- No answer holds more bytes than were sent (R97). -/
theorem Env.busAnswer_length_le (p : Params) (e : Env) (mosi : List Byte) : (e.busAnswer p mosi).1.length ≤ mosi.length := by
  unfold Env.busAnswer
  cases e.source with
  | oracle => cases e.busTape <;> exact List.length_take_le _ _
  | reference => exact List.length_take_le _ _

/-- A settled answer is given, and leaves the tape. -/
theorem Env.busAnswer_tape {e : Env} {a : List Byte} {rest : List (List Byte)} {mosi : List Byte}
    (hs : e.source = .oracle) (ht : e.busTape = a :: rest) :
    e.busAnswer p mosi = (a.take mosi.length, { e with busTape := rest }) := by
  simp [Env.busAnswer, hs, ht]

/-- A settled sample is given, and leaves the tape. -/
theorem Env.lineAnswer_tape {e : Env} {l : Bool} {rest : List Bool}
    (hs : e.source = .oracle) (ht : e.lineTape = l :: rest) :
    e.lineAnswer p = (l, { e with lineTape := rest }) := by
  simp [Env.lineAnswer, hs, ht]

theorem State.busAnswer_tape {s : State} {a : List Byte} {rest : List (List Byte)} {mosi : List Byte}
    (hs : s.env.source = .oracle) (ht : s.env.busTape = a :: rest) :
    s.busAnswer mosi = (a.take mosi.length, { s.env with busTape := rest }) := Env.busAnswer_tape hs ht

theorem State.lineAnswer_tape {s : State} {l : Bool} {rest : List Bool}
    (hs : s.env.source = .oracle) (ht : s.env.lineTape = l :: rest) :
    s.lineAnswer = (l, { s.env with lineTape := rest }) := Env.lineAnswer_tape hs ht

end Sys2Proof.Machine
end

