-- ==== Sys2Proof/Laws/State.lean ====
section
/-! SUPPORT. What each named update of State leaves in each field: one lemma per field per update, so that no
proof unfolds a record update. -/

namespace Sys2Proof.Machine

section Raise
variable (o : OutcomeCode) (p : Phase) (sub : SubReason) (s : State)
@[simp] theorem raise_linkMode : (raise o p sub s).linkMode = s.linkMode := rfl
@[simp] theorem raise_localAddr : (raise o p sub s).localAddr = s.localAddr := rfl
@[simp] theorem raise_cs : (raise o p sub s).cs = s.cs := rfl
@[simp] theorem raise_initialised : (raise o p sub s).initialised = s.initialised := rfl
@[simp] theorem raise_configured : (raise o p sub s).configured = s.configured := rfl
@[simp] theorem raise_busy : (raise o p sub s).busy = false := rfl
@[simp] theorem raise_phase : (raise o p sub s).phase = .none := rfl
@[simp] theorem raise_outcome : (raise o p sub s).outcome = o := rfl
@[simp] theorem raise_detail : (raise o p sub s).detail = ⟨p, sub⟩ := rfl
@[simp] theorem raise_rxLen : (raise o p sub s).rxLen = s.rxLen := rfl
@[simp] theorem raise_rxAddr : (raise o p sub s).rxAddr = s.rxAddr := rfl
@[simp] theorem raise_rxBuf : (raise o p sub s).rxBuf = s.rxBuf := rfl
@[simp] theorem raise_rxRssiRaw : (raise o p sub s).rxRssiRaw = s.rxRssiRaw := rfl
@[simp] theorem raise_rxStatus2 : (raise o p sub s).rxStatus2 = s.rxStatus2 := rfl
@[simp] theorem raise_txFrame : (raise o p sub s).txFrame = s.txFrame := rfl
@[simp] theorem raise_txFrameLen : (raise o p sub s).txFrameLen = s.txFrameLen := rfl
@[simp] theorem raise_polls : (raise o p sub s).polls = s.polls := rfl
@[simp] theorem raise_retries : (raise o p sub s).retries = s.retries := rfl
@[simp] theorem raise_lqRaw : (raise o p sub s).lqRaw = s.lqRaw := rfl
@[simp] theorem raise_lqDbm : (raise o p sub s).lqDbm = s.lqDbm := rfl
@[simp] theorem raise_lqClass : (raise o p sub s).lqClass = s.lqClass := rfl
@[simp] theorem raise_rdData : (raise o p sub s).rdData = s.rdData := rfl
@[simp] theorem raise_pfLen : (raise o p sub s).pfLen = s.pfLen := rfl
@[simp] theorem raise_pfAddr : (raise o p sub s).pfAddr = s.pfAddr := rfl
@[simp] theorem raise_pfPayload : (raise o p sub s).pfPayload = s.pfPayload := rfl
@[simp] theorem raise_faulted : (raise o p sub s).faulted = s.faulted := rfl
@[simp] theorem raise_written : (raise o p sub s).written = s.written := rfl
@[simp] theorem raise_trace : (raise o p sub s).trace = s.trace := rfl
@[simp] theorem raise_params : (raise o p sub s).params = s.params := rfl
@[simp] theorem raise_env : (raise o p sub s).env = s.env := rfl
@[simp] theorem raise_rxDraws : (raise o p sub s).rxDraws = s.rxDraws := rfl
@[simp] theorem raise_faultCause : (raise o p sub s).faultCause = s.faultCause := rfl
@[simp] theorem raise_reply : (raise o p sub s).reply = .outcome := rfl
@[simp] theorem raise_busData : (raise o p sub s).busData = s.busData := rfl
@[simp] theorem raise_hostIn : (raise o p sub s).hostIn = s.hostIn := rfl
@[simp] theorem raise_busIn : (raise o p sub s).busIn = s.busIn := rfl
end Raise

section ModelFault
variable (f : Fault) (s : State)
@[simp] theorem modelFault_linkMode : (modelFault f s).linkMode = s.linkMode := rfl
@[simp] theorem modelFault_localAddr : (modelFault f s).localAddr = s.localAddr := rfl
@[simp] theorem modelFault_cs : (modelFault f s).cs = s.cs := rfl
@[simp] theorem modelFault_initialised : (modelFault f s).initialised = s.initialised := rfl
@[simp] theorem modelFault_configured : (modelFault f s).configured = s.configured := rfl
@[simp] theorem modelFault_busy : (modelFault f s).busy = s.busy := rfl
@[simp] theorem modelFault_phase : (modelFault f s).phase = s.phase := rfl
@[simp] theorem modelFault_outcome : (modelFault f s).outcome = s.outcome := rfl
@[simp] theorem modelFault_detail : (modelFault f s).detail = s.detail := rfl
@[simp] theorem modelFault_rxLen : (modelFault f s).rxLen = s.rxLen := rfl
@[simp] theorem modelFault_rxAddr : (modelFault f s).rxAddr = s.rxAddr := rfl
@[simp] theorem modelFault_rxBuf : (modelFault f s).rxBuf = s.rxBuf := rfl
@[simp] theorem modelFault_rxRssiRaw : (modelFault f s).rxRssiRaw = s.rxRssiRaw := rfl
@[simp] theorem modelFault_rxStatus2 : (modelFault f s).rxStatus2 = s.rxStatus2 := rfl
@[simp] theorem modelFault_txFrame : (modelFault f s).txFrame = s.txFrame := rfl
@[simp] theorem modelFault_txFrameLen : (modelFault f s).txFrameLen = s.txFrameLen := rfl
@[simp] theorem modelFault_polls : (modelFault f s).polls = s.polls := rfl
@[simp] theorem modelFault_retries : (modelFault f s).retries = s.retries := rfl
@[simp] theorem modelFault_lqRaw : (modelFault f s).lqRaw = s.lqRaw := rfl
@[simp] theorem modelFault_lqDbm : (modelFault f s).lqDbm = s.lqDbm := rfl
@[simp] theorem modelFault_lqClass : (modelFault f s).lqClass = s.lqClass := rfl
@[simp] theorem modelFault_rdData : (modelFault f s).rdData = s.rdData := rfl
@[simp] theorem modelFault_pfLen : (modelFault f s).pfLen = s.pfLen := rfl
@[simp] theorem modelFault_pfAddr : (modelFault f s).pfAddr = s.pfAddr := rfl
@[simp] theorem modelFault_pfPayload : (modelFault f s).pfPayload = s.pfPayload := rfl
@[simp] theorem modelFault_faulted : (modelFault f s).faulted = true := rfl
@[simp] theorem modelFault_written : (modelFault f s).written = s.written := rfl
@[simp] theorem modelFault_trace : (modelFault f s).trace = s.trace := rfl
@[simp] theorem modelFault_params : (modelFault f s).params = s.params := rfl
@[simp] theorem modelFault_env : (modelFault f s).env = s.env := rfl
@[simp] theorem modelFault_rxDraws : (modelFault f s).rxDraws = s.rxDraws := rfl
@[simp] theorem modelFault_faultCause : (modelFault f s).faultCause = some f := rfl
@[simp] theorem modelFault_reply : (modelFault f s).reply = s.reply := rfl
@[simp] theorem modelFault_busData : (modelFault f s).busData = s.busData := rfl
@[simp] theorem modelFault_hostIn : (modelFault f s).hostIn = s.hostIn := rfl
@[simp] theorem modelFault_busIn : (modelFault f s).busIn = s.busIn := rfl
end ModelFault

section Refuse
variable (s : State)
@[simp] theorem refuse_linkMode : (refuse s).linkMode = s.linkMode := rfl
@[simp] theorem refuse_localAddr : (refuse s).localAddr = s.localAddr := rfl
@[simp] theorem refuse_cs : (refuse s).cs = s.cs := rfl
@[simp] theorem refuse_initialised : (refuse s).initialised = s.initialised := rfl
@[simp] theorem refuse_configured : (refuse s).configured = s.configured := rfl
@[simp] theorem refuse_busy : (refuse s).busy = s.busy := rfl
@[simp] theorem refuse_phase : (refuse s).phase = s.phase := rfl
@[simp] theorem refuse_outcome : (refuse s).outcome = s.outcome := rfl
@[simp] theorem refuse_detail : (refuse s).detail = s.detail := rfl
@[simp] theorem refuse_rxLen : (refuse s).rxLen = s.rxLen := rfl
@[simp] theorem refuse_rxAddr : (refuse s).rxAddr = s.rxAddr := rfl
@[simp] theorem refuse_rxBuf : (refuse s).rxBuf = s.rxBuf := rfl
@[simp] theorem refuse_rxRssiRaw : (refuse s).rxRssiRaw = s.rxRssiRaw := rfl
@[simp] theorem refuse_rxStatus2 : (refuse s).rxStatus2 = s.rxStatus2 := rfl
@[simp] theorem refuse_txFrame : (refuse s).txFrame = s.txFrame := rfl
@[simp] theorem refuse_txFrameLen : (refuse s).txFrameLen = s.txFrameLen := rfl
@[simp] theorem refuse_polls : (refuse s).polls = s.polls := rfl
@[simp] theorem refuse_retries : (refuse s).retries = s.retries := rfl
@[simp] theorem refuse_lqRaw : (refuse s).lqRaw = s.lqRaw := rfl
@[simp] theorem refuse_lqDbm : (refuse s).lqDbm = s.lqDbm := rfl
@[simp] theorem refuse_lqClass : (refuse s).lqClass = s.lqClass := rfl
@[simp] theorem refuse_rdData : (refuse s).rdData = s.rdData := rfl
@[simp] theorem refuse_pfLen : (refuse s).pfLen = s.pfLen := rfl
@[simp] theorem refuse_pfAddr : (refuse s).pfAddr = s.pfAddr := rfl
@[simp] theorem refuse_pfPayload : (refuse s).pfPayload = s.pfPayload := rfl
@[simp] theorem refuse_faulted : (refuse s).faulted = s.faulted := rfl
@[simp] theorem refuse_written : (refuse s).written = s.written := rfl
@[simp] theorem refuse_trace : (refuse s).trace = s.trace := rfl
@[simp] theorem refuse_params : (refuse s).params = s.params := rfl
@[simp] theorem refuse_env : (refuse s).env = s.env := rfl
@[simp] theorem refuse_rxDraws : (refuse s).rxDraws = s.rxDraws := rfl
@[simp] theorem refuse_faultCause : (refuse s).faultCause = s.faultCause := rfl
@[simp] theorem refuse_reply : (refuse s).reply = .notAdmitted := rfl
@[simp] theorem refuse_busData : (refuse s).busData = s.busData := rfl
@[simp] theorem refuse_hostIn : (refuse s).hostIn = s.hostIn := rfl
@[simp] theorem refuse_busIn : (refuse s).busIn = s.busIn := rfl
end Refuse

section ClearCounters
variable (s : State)
@[simp] theorem clearCounters_linkMode : (clearCounters s).linkMode = s.linkMode := rfl
@[simp] theorem clearCounters_localAddr : (clearCounters s).localAddr = s.localAddr := rfl
@[simp] theorem clearCounters_cs : (clearCounters s).cs = s.cs := rfl
@[simp] theorem clearCounters_initialised : (clearCounters s).initialised = s.initialised := rfl
@[simp] theorem clearCounters_configured : (clearCounters s).configured = s.configured := rfl
@[simp] theorem clearCounters_busy : (clearCounters s).busy = s.busy := rfl
@[simp] theorem clearCounters_phase : (clearCounters s).phase = s.phase := rfl
@[simp] theorem clearCounters_outcome : (clearCounters s).outcome = s.outcome := rfl
@[simp] theorem clearCounters_detail : (clearCounters s).detail = s.detail := rfl
@[simp] theorem clearCounters_rxLen : (clearCounters s).rxLen = s.rxLen := rfl
@[simp] theorem clearCounters_rxAddr : (clearCounters s).rxAddr = s.rxAddr := rfl
@[simp] theorem clearCounters_rxBuf : (clearCounters s).rxBuf = s.rxBuf := rfl
@[simp] theorem clearCounters_rxRssiRaw : (clearCounters s).rxRssiRaw = s.rxRssiRaw := rfl
@[simp] theorem clearCounters_rxStatus2 : (clearCounters s).rxStatus2 = s.rxStatus2 := rfl
@[simp] theorem clearCounters_txFrame : (clearCounters s).txFrame = s.txFrame := rfl
@[simp] theorem clearCounters_txFrameLen : (clearCounters s).txFrameLen = s.txFrameLen := rfl
@[simp] theorem clearCounters_polls : (clearCounters s).polls = 0 := rfl
@[simp] theorem clearCounters_retries : (clearCounters s).retries = 0 := rfl
@[simp] theorem clearCounters_lqRaw : (clearCounters s).lqRaw = s.lqRaw := rfl
@[simp] theorem clearCounters_lqDbm : (clearCounters s).lqDbm = s.lqDbm := rfl
@[simp] theorem clearCounters_lqClass : (clearCounters s).lqClass = s.lqClass := rfl
@[simp] theorem clearCounters_rdData : (clearCounters s).rdData = s.rdData := rfl
@[simp] theorem clearCounters_pfLen : (clearCounters s).pfLen = s.pfLen := rfl
@[simp] theorem clearCounters_pfAddr : (clearCounters s).pfAddr = s.pfAddr := rfl
@[simp] theorem clearCounters_pfPayload : (clearCounters s).pfPayload = s.pfPayload := rfl
@[simp] theorem clearCounters_faulted : (clearCounters s).faulted = s.faulted := rfl
@[simp] theorem clearCounters_written : (clearCounters s).written = s.written := rfl
@[simp] theorem clearCounters_trace : (clearCounters s).trace = s.trace := rfl
@[simp] theorem clearCounters_params : (clearCounters s).params = s.params := rfl
@[simp] theorem clearCounters_env : (clearCounters s).env = s.env := rfl
@[simp] theorem clearCounters_rxDraws : (clearCounters s).rxDraws = s.rxDraws := rfl
@[simp] theorem clearCounters_faultCause : (clearCounters s).faultCause = s.faultCause := rfl
@[simp] theorem clearCounters_reply : (clearCounters s).reply = s.reply := rfl
@[simp] theorem clearCounters_busData : (clearCounters s).busData = s.busData := rfl
@[simp] theorem clearCounters_hostIn : (clearCounters s).hostIn = s.hostIn := rfl
@[simp] theorem clearCounters_busIn : (clearCounters s).busIn = s.busIn := rfl
end ClearCounters

section BeginOp
variable (s : State)
@[simp] theorem beginOp_linkMode : (beginOp s).linkMode = s.linkMode := rfl
@[simp] theorem beginOp_localAddr : (beginOp s).localAddr = s.localAddr := rfl
@[simp] theorem beginOp_cs : (beginOp s).cs = s.cs := rfl
@[simp] theorem beginOp_initialised : (beginOp s).initialised = s.initialised := rfl
@[simp] theorem beginOp_configured : (beginOp s).configured = s.configured := rfl
@[simp] theorem beginOp_busy : (beginOp s).busy = true := rfl
@[simp] theorem beginOp_phase : (beginOp s).phase = s.phase := rfl
@[simp] theorem beginOp_outcome : (beginOp s).outcome = s.outcome := rfl
@[simp] theorem beginOp_detail : (beginOp s).detail = s.detail := rfl
@[simp] theorem beginOp_rxLen : (beginOp s).rxLen = s.rxLen := rfl
@[simp] theorem beginOp_rxAddr : (beginOp s).rxAddr = s.rxAddr := rfl
@[simp] theorem beginOp_rxBuf : (beginOp s).rxBuf = s.rxBuf := rfl
@[simp] theorem beginOp_rxRssiRaw : (beginOp s).rxRssiRaw = s.rxRssiRaw := rfl
@[simp] theorem beginOp_rxStatus2 : (beginOp s).rxStatus2 = s.rxStatus2 := rfl
@[simp] theorem beginOp_txFrame : (beginOp s).txFrame = s.txFrame := rfl
@[simp] theorem beginOp_txFrameLen : (beginOp s).txFrameLen = s.txFrameLen := rfl
@[simp] theorem beginOp_polls : (beginOp s).polls = 0 := rfl
@[simp] theorem beginOp_retries : (beginOp s).retries = 0 := rfl
@[simp] theorem beginOp_lqRaw : (beginOp s).lqRaw = s.lqRaw := rfl
@[simp] theorem beginOp_lqDbm : (beginOp s).lqDbm = s.lqDbm := rfl
@[simp] theorem beginOp_lqClass : (beginOp s).lqClass = s.lqClass := rfl
@[simp] theorem beginOp_rdData : (beginOp s).rdData = s.rdData := rfl
@[simp] theorem beginOp_pfLen : (beginOp s).pfLen = s.pfLen := rfl
@[simp] theorem beginOp_pfAddr : (beginOp s).pfAddr = s.pfAddr := rfl
@[simp] theorem beginOp_pfPayload : (beginOp s).pfPayload = s.pfPayload := rfl
@[simp] theorem beginOp_faulted : (beginOp s).faulted = s.faulted := rfl
@[simp] theorem beginOp_written : (beginOp s).written = s.written := rfl
@[simp] theorem beginOp_trace : (beginOp s).trace = s.trace := rfl
@[simp] theorem beginOp_params : (beginOp s).params = s.params := rfl
@[simp] theorem beginOp_env : (beginOp s).env = s.env := rfl
@[simp] theorem beginOp_rxDraws : (beginOp s).rxDraws = s.rxDraws := rfl
@[simp] theorem beginOp_faultCause : (beginOp s).faultCause = s.faultCause := rfl
@[simp] theorem beginOp_reply : (beginOp s).reply = s.reply := rfl
@[simp] theorem beginOp_busData : (beginOp s).busData = s.busData := rfl
@[simp] theorem beginOp_hostIn : (beginOp s).hostIn = s.hostIn := rfl
@[simp] theorem beginOp_busIn : (beginOp s).busIn = s.busIn := rfl
end BeginOp

section AtPhase
variable (p : Phase) (s : State)
@[simp] theorem atPhase_linkMode : (atPhase p s).linkMode = s.linkMode := rfl
@[simp] theorem atPhase_localAddr : (atPhase p s).localAddr = s.localAddr := rfl
@[simp] theorem atPhase_cs : (atPhase p s).cs = s.cs := rfl
@[simp] theorem atPhase_initialised : (atPhase p s).initialised = s.initialised := rfl
@[simp] theorem atPhase_configured : (atPhase p s).configured = s.configured := rfl
@[simp] theorem atPhase_busy : (atPhase p s).busy = s.busy := rfl
@[simp] theorem atPhase_phase : (atPhase p s).phase = p := rfl
@[simp] theorem atPhase_outcome : (atPhase p s).outcome = s.outcome := rfl
@[simp] theorem atPhase_detail : (atPhase p s).detail = s.detail := rfl
@[simp] theorem atPhase_rxLen : (atPhase p s).rxLen = s.rxLen := rfl
@[simp] theorem atPhase_rxAddr : (atPhase p s).rxAddr = s.rxAddr := rfl
@[simp] theorem atPhase_rxBuf : (atPhase p s).rxBuf = s.rxBuf := rfl
@[simp] theorem atPhase_rxRssiRaw : (atPhase p s).rxRssiRaw = s.rxRssiRaw := rfl
@[simp] theorem atPhase_rxStatus2 : (atPhase p s).rxStatus2 = s.rxStatus2 := rfl
@[simp] theorem atPhase_txFrame : (atPhase p s).txFrame = s.txFrame := rfl
@[simp] theorem atPhase_txFrameLen : (atPhase p s).txFrameLen = s.txFrameLen := rfl
@[simp] theorem atPhase_polls : (atPhase p s).polls = s.polls := rfl
@[simp] theorem atPhase_retries : (atPhase p s).retries = s.retries := rfl
@[simp] theorem atPhase_lqRaw : (atPhase p s).lqRaw = s.lqRaw := rfl
@[simp] theorem atPhase_lqDbm : (atPhase p s).lqDbm = s.lqDbm := rfl
@[simp] theorem atPhase_lqClass : (atPhase p s).lqClass = s.lqClass := rfl
@[simp] theorem atPhase_rdData : (atPhase p s).rdData = s.rdData := rfl
@[simp] theorem atPhase_pfLen : (atPhase p s).pfLen = s.pfLen := rfl
@[simp] theorem atPhase_pfAddr : (atPhase p s).pfAddr = s.pfAddr := rfl
@[simp] theorem atPhase_pfPayload : (atPhase p s).pfPayload = s.pfPayload := rfl
@[simp] theorem atPhase_faulted : (atPhase p s).faulted = s.faulted := rfl
@[simp] theorem atPhase_written : (atPhase p s).written = s.written := rfl
@[simp] theorem atPhase_trace : (atPhase p s).trace = s.trace := rfl
@[simp] theorem atPhase_params : (atPhase p s).params = s.params := rfl
@[simp] theorem atPhase_env : (atPhase p s).env = s.env := rfl
@[simp] theorem atPhase_rxDraws : (atPhase p s).rxDraws = s.rxDraws := rfl
@[simp] theorem atPhase_faultCause : (atPhase p s).faultCause = s.faultCause := rfl
@[simp] theorem atPhase_reply : (atPhase p s).reply = s.reply := rfl
@[simp] theorem atPhase_busData : (atPhase p s).busData = s.busData := rfl
@[simp] theorem atPhase_hostIn : (atPhase p s).hostIn = s.hostIn := rfl
@[simp] theorem atPhase_busIn : (atPhase p s).busIn = s.busIn := rfl
end AtPhase

section RecordStrobe
variable (c : Strobe) (s : State)
@[simp] theorem recordStrobe_linkMode : (recordStrobe c s).linkMode = Strobe.modeAfter c s.linkMode := rfl
@[simp] theorem recordStrobe_localAddr : (recordStrobe c s).localAddr = s.localAddr := rfl
@[simp] theorem recordStrobe_cs : (recordStrobe c s).cs = s.cs := rfl
@[simp] theorem recordStrobe_initialised : (recordStrobe c s).initialised = s.initialised := rfl
@[simp] theorem recordStrobe_configured : (recordStrobe c s).configured = s.configured := rfl
@[simp] theorem recordStrobe_busy : (recordStrobe c s).busy = s.busy := rfl
@[simp] theorem recordStrobe_phase : (recordStrobe c s).phase = s.phase := rfl
@[simp] theorem recordStrobe_outcome : (recordStrobe c s).outcome = s.outcome := rfl
@[simp] theorem recordStrobe_detail : (recordStrobe c s).detail = s.detail := rfl
@[simp] theorem recordStrobe_rxLen : (recordStrobe c s).rxLen = s.rxLen := rfl
@[simp] theorem recordStrobe_rxAddr : (recordStrobe c s).rxAddr = s.rxAddr := rfl
@[simp] theorem recordStrobe_rxBuf : (recordStrobe c s).rxBuf = s.rxBuf := rfl
@[simp] theorem recordStrobe_rxRssiRaw : (recordStrobe c s).rxRssiRaw = s.rxRssiRaw := rfl
@[simp] theorem recordStrobe_rxStatus2 : (recordStrobe c s).rxStatus2 = s.rxStatus2 := rfl
@[simp] theorem recordStrobe_txFrame : (recordStrobe c s).txFrame = s.txFrame := rfl
@[simp] theorem recordStrobe_txFrameLen : (recordStrobe c s).txFrameLen = s.txFrameLen := rfl
@[simp] theorem recordStrobe_polls : (recordStrobe c s).polls = s.polls := rfl
@[simp] theorem recordStrobe_retries : (recordStrobe c s).retries = s.retries := rfl
@[simp] theorem recordStrobe_lqRaw : (recordStrobe c s).lqRaw = s.lqRaw := rfl
@[simp] theorem recordStrobe_lqDbm : (recordStrobe c s).lqDbm = s.lqDbm := rfl
@[simp] theorem recordStrobe_lqClass : (recordStrobe c s).lqClass = s.lqClass := rfl
@[simp] theorem recordStrobe_rdData : (recordStrobe c s).rdData = s.rdData := rfl
@[simp] theorem recordStrobe_pfLen : (recordStrobe c s).pfLen = s.pfLen := rfl
@[simp] theorem recordStrobe_pfAddr : (recordStrobe c s).pfAddr = s.pfAddr := rfl
@[simp] theorem recordStrobe_pfPayload : (recordStrobe c s).pfPayload = s.pfPayload := rfl
@[simp] theorem recordStrobe_faulted : (recordStrobe c s).faulted = s.faulted := rfl
@[simp] theorem recordStrobe_written : (recordStrobe c s).written = s.written := rfl
@[simp] theorem recordStrobe_trace : (recordStrobe c s).trace = s.trace := rfl
@[simp] theorem recordStrobe_params : (recordStrobe c s).params = s.params := rfl
@[simp] theorem recordStrobe_env : (recordStrobe c s).env = s.env := rfl
@[simp] theorem recordStrobe_rxDraws : (recordStrobe c s).rxDraws = s.rxDraws := rfl
@[simp] theorem recordStrobe_faultCause : (recordStrobe c s).faultCause = s.faultCause := rfl
@[simp] theorem recordStrobe_reply : (recordStrobe c s).reply = s.reply := rfl
@[simp] theorem recordStrobe_busData : (recordStrobe c s).busData = s.busData := rfl
@[simp] theorem recordStrobe_hostIn : (recordStrobe c s).hostIn = s.hostIn := rfl
@[simp] theorem recordStrobe_busIn : (recordStrobe c s).busIn = s.busIn := rfl
end RecordStrobe

section CsPulse
variable (s : State)
@[simp] theorem csPulse_linkMode : (csPulse s).linkMode = s.linkMode := rfl
@[simp] theorem csPulse_localAddr : (csPulse s).localAddr = s.localAddr := rfl
@[simp] theorem csPulse_cs : (csPulse s).cs = true := rfl
@[simp] theorem csPulse_initialised : (csPulse s).initialised = s.initialised := rfl
@[simp] theorem csPulse_configured : (csPulse s).configured = s.configured := rfl
@[simp] theorem csPulse_busy : (csPulse s).busy = s.busy := rfl
@[simp] theorem csPulse_phase : (csPulse s).phase = s.phase := rfl
@[simp] theorem csPulse_outcome : (csPulse s).outcome = s.outcome := rfl
@[simp] theorem csPulse_detail : (csPulse s).detail = s.detail := rfl
@[simp] theorem csPulse_rxLen : (csPulse s).rxLen = s.rxLen := rfl
@[simp] theorem csPulse_rxAddr : (csPulse s).rxAddr = s.rxAddr := rfl
@[simp] theorem csPulse_rxBuf : (csPulse s).rxBuf = s.rxBuf := rfl
@[simp] theorem csPulse_rxRssiRaw : (csPulse s).rxRssiRaw = s.rxRssiRaw := rfl
@[simp] theorem csPulse_rxStatus2 : (csPulse s).rxStatus2 = s.rxStatus2 := rfl
@[simp] theorem csPulse_txFrame : (csPulse s).txFrame = s.txFrame := rfl
@[simp] theorem csPulse_txFrameLen : (csPulse s).txFrameLen = s.txFrameLen := rfl
@[simp] theorem csPulse_polls : (csPulse s).polls = s.polls := rfl
@[simp] theorem csPulse_retries : (csPulse s).retries = s.retries := rfl
@[simp] theorem csPulse_lqRaw : (csPulse s).lqRaw = s.lqRaw := rfl
@[simp] theorem csPulse_lqDbm : (csPulse s).lqDbm = s.lqDbm := rfl
@[simp] theorem csPulse_lqClass : (csPulse s).lqClass = s.lqClass := rfl
@[simp] theorem csPulse_rdData : (csPulse s).rdData = s.rdData := rfl
@[simp] theorem csPulse_pfLen : (csPulse s).pfLen = s.pfLen := rfl
@[simp] theorem csPulse_pfAddr : (csPulse s).pfAddr = s.pfAddr := rfl
@[simp] theorem csPulse_pfPayload : (csPulse s).pfPayload = s.pfPayload := rfl
@[simp] theorem csPulse_faulted : (csPulse s).faulted = s.faulted := rfl
@[simp] theorem csPulse_written : (csPulse s).written = s.written := rfl
@[simp] theorem csPulse_trace : (csPulse s).trace = s.trace ++ [.csLow, .csHigh] := rfl
@[simp] theorem csPulse_params : (csPulse s).params = s.params := rfl
@[simp] theorem csPulse_env : (csPulse s).env = s.env := rfl
@[simp] theorem csPulse_rxDraws : (csPulse s).rxDraws = s.rxDraws := rfl
@[simp] theorem csPulse_faultCause : (csPulse s).faultCause = s.faultCause := rfl
@[simp] theorem csPulse_reply : (csPulse s).reply = s.reply := rfl
@[simp] theorem csPulse_busData : (csPulse s).busData = s.busData := rfl
@[simp] theorem csPulse_hostIn : (csPulse s).hostIn = s.hostIn := rfl
@[simp] theorem csPulse_busIn : (csPulse s).busIn = s.busIn := rfl
end CsPulse

section WaitSettle
variable (s : State)
@[simp] theorem waitSettle_linkMode : (waitSettle s).linkMode = s.linkMode := rfl
@[simp] theorem waitSettle_localAddr : (waitSettle s).localAddr = s.localAddr := rfl
@[simp] theorem waitSettle_cs : (waitSettle s).cs = s.cs := rfl
@[simp] theorem waitSettle_initialised : (waitSettle s).initialised = s.initialised := rfl
@[simp] theorem waitSettle_configured : (waitSettle s).configured = s.configured := rfl
@[simp] theorem waitSettle_busy : (waitSettle s).busy = s.busy := rfl
@[simp] theorem waitSettle_phase : (waitSettle s).phase = s.phase := rfl
@[simp] theorem waitSettle_outcome : (waitSettle s).outcome = s.outcome := rfl
@[simp] theorem waitSettle_detail : (waitSettle s).detail = s.detail := rfl
@[simp] theorem waitSettle_rxLen : (waitSettle s).rxLen = s.rxLen := rfl
@[simp] theorem waitSettle_rxAddr : (waitSettle s).rxAddr = s.rxAddr := rfl
@[simp] theorem waitSettle_rxBuf : (waitSettle s).rxBuf = s.rxBuf := rfl
@[simp] theorem waitSettle_rxRssiRaw : (waitSettle s).rxRssiRaw = s.rxRssiRaw := rfl
@[simp] theorem waitSettle_rxStatus2 : (waitSettle s).rxStatus2 = s.rxStatus2 := rfl
@[simp] theorem waitSettle_txFrame : (waitSettle s).txFrame = s.txFrame := rfl
@[simp] theorem waitSettle_txFrameLen : (waitSettle s).txFrameLen = s.txFrameLen := rfl
@[simp] theorem waitSettle_polls : (waitSettle s).polls = s.polls := rfl
@[simp] theorem waitSettle_retries : (waitSettle s).retries = s.retries := rfl
@[simp] theorem waitSettle_lqRaw : (waitSettle s).lqRaw = s.lqRaw := rfl
@[simp] theorem waitSettle_lqDbm : (waitSettle s).lqDbm = s.lqDbm := rfl
@[simp] theorem waitSettle_lqClass : (waitSettle s).lqClass = s.lqClass := rfl
@[simp] theorem waitSettle_rdData : (waitSettle s).rdData = s.rdData := rfl
@[simp] theorem waitSettle_pfLen : (waitSettle s).pfLen = s.pfLen := rfl
@[simp] theorem waitSettle_pfAddr : (waitSettle s).pfAddr = s.pfAddr := rfl
@[simp] theorem waitSettle_pfPayload : (waitSettle s).pfPayload = s.pfPayload := rfl
@[simp] theorem waitSettle_faulted : (waitSettle s).faulted = s.faulted := rfl
@[simp] theorem waitSettle_written : (waitSettle s).written = s.written := rfl
@[simp] theorem waitSettle_trace : (waitSettle s).trace = s.trace ++ [.settle] := rfl
@[simp] theorem waitSettle_params : (waitSettle s).params = s.params := rfl
@[simp] theorem waitSettle_env : (waitSettle s).env = s.env.settled := rfl
@[simp] theorem waitSettle_rxDraws : (waitSettle s).rxDraws = s.rxDraws := rfl
@[simp] theorem waitSettle_faultCause : (waitSettle s).faultCause = s.faultCause := rfl
@[simp] theorem waitSettle_reply : (waitSettle s).reply = s.reply := rfl
@[simp] theorem waitSettle_busData : (waitSettle s).busData = s.busData := rfl
@[simp] theorem waitSettle_hostIn : (waitSettle s).hostIn = s.hostIn := rfl
@[simp] theorem waitSettle_busIn : (waitSettle s).busIn = s.busIn := rfl
end WaitSettle

section StoreFrame
variable (f : List Byte) (s : State)
@[simp] theorem storeFrame_linkMode : (storeFrame f s).linkMode = s.linkMode := rfl
@[simp] theorem storeFrame_localAddr : (storeFrame f s).localAddr = s.localAddr := rfl
@[simp] theorem storeFrame_cs : (storeFrame f s).cs = s.cs := rfl
@[simp] theorem storeFrame_initialised : (storeFrame f s).initialised = s.initialised := rfl
@[simp] theorem storeFrame_configured : (storeFrame f s).configured = s.configured := rfl
@[simp] theorem storeFrame_busy : (storeFrame f s).busy = s.busy := rfl
@[simp] theorem storeFrame_phase : (storeFrame f s).phase = s.phase := rfl
@[simp] theorem storeFrame_outcome : (storeFrame f s).outcome = s.outcome := rfl
@[simp] theorem storeFrame_detail : (storeFrame f s).detail = s.detail := rfl
@[simp] theorem storeFrame_rxLen : (storeFrame f s).rxLen = s.rxLen := rfl
@[simp] theorem storeFrame_rxAddr : (storeFrame f s).rxAddr = s.rxAddr := rfl
@[simp] theorem storeFrame_rxBuf : (storeFrame f s).rxBuf = s.rxBuf := rfl
@[simp] theorem storeFrame_rxRssiRaw : (storeFrame f s).rxRssiRaw = s.rxRssiRaw := rfl
@[simp] theorem storeFrame_rxStatus2 : (storeFrame f s).rxStatus2 = s.rxStatus2 := rfl
@[simp] theorem storeFrame_txFrame : (storeFrame f s).txFrame = f ++ s.txFrame.drop f.length := rfl
@[simp] theorem storeFrame_txFrameLen : (storeFrame f s).txFrameLen = f.length := rfl
@[simp] theorem storeFrame_polls : (storeFrame f s).polls = s.polls := rfl
@[simp] theorem storeFrame_retries : (storeFrame f s).retries = s.retries := rfl
@[simp] theorem storeFrame_lqRaw : (storeFrame f s).lqRaw = s.lqRaw := rfl
@[simp] theorem storeFrame_lqDbm : (storeFrame f s).lqDbm = s.lqDbm := rfl
@[simp] theorem storeFrame_lqClass : (storeFrame f s).lqClass = s.lqClass := rfl
@[simp] theorem storeFrame_rdData : (storeFrame f s).rdData = s.rdData := rfl
@[simp] theorem storeFrame_pfLen : (storeFrame f s).pfLen = s.pfLen := rfl
@[simp] theorem storeFrame_pfAddr : (storeFrame f s).pfAddr = s.pfAddr := rfl
@[simp] theorem storeFrame_pfPayload : (storeFrame f s).pfPayload = s.pfPayload := rfl
@[simp] theorem storeFrame_faulted : (storeFrame f s).faulted = s.faulted := rfl
@[simp] theorem storeFrame_written : (storeFrame f s).written = s.written := rfl
@[simp] theorem storeFrame_trace : (storeFrame f s).trace = s.trace := rfl
@[simp] theorem storeFrame_params : (storeFrame f s).params = s.params := rfl
@[simp] theorem storeFrame_env : (storeFrame f s).env = s.env := rfl
@[simp] theorem storeFrame_rxDraws : (storeFrame f s).rxDraws = s.rxDraws := rfl
@[simp] theorem storeFrame_faultCause : (storeFrame f s).faultCause = s.faultCause := rfl
@[simp] theorem storeFrame_reply : (storeFrame f s).reply = s.reply := rfl
@[simp] theorem storeFrame_busData : (storeFrame f s).busData = s.busData := rfl
@[simp] theorem storeFrame_hostIn : (storeFrame f s).hostIn = s.hostIn := rfl
@[simp] theorem storeFrame_busIn : (storeFrame f s).busIn = s.busIn := rfl
end StoreFrame

section StoreRead
variable (d : List Byte) (s : State)
@[simp] theorem storeRead_linkMode : (storeRead d s).linkMode = s.linkMode := rfl
@[simp] theorem storeRead_localAddr : (storeRead d s).localAddr = s.localAddr := rfl
@[simp] theorem storeRead_cs : (storeRead d s).cs = s.cs := rfl
@[simp] theorem storeRead_initialised : (storeRead d s).initialised = s.initialised := rfl
@[simp] theorem storeRead_configured : (storeRead d s).configured = s.configured := rfl
@[simp] theorem storeRead_busy : (storeRead d s).busy = s.busy := rfl
@[simp] theorem storeRead_phase : (storeRead d s).phase = s.phase := rfl
@[simp] theorem storeRead_outcome : (storeRead d s).outcome = s.outcome := rfl
@[simp] theorem storeRead_detail : (storeRead d s).detail = s.detail := rfl
@[simp] theorem storeRead_rxLen : (storeRead d s).rxLen = s.rxLen := rfl
@[simp] theorem storeRead_rxAddr : (storeRead d s).rxAddr = s.rxAddr := rfl
@[simp] theorem storeRead_rxBuf : (storeRead d s).rxBuf = s.rxBuf := rfl
@[simp] theorem storeRead_rxRssiRaw : (storeRead d s).rxRssiRaw = s.rxRssiRaw := rfl
@[simp] theorem storeRead_rxStatus2 : (storeRead d s).rxStatus2 = s.rxStatus2 := rfl
@[simp] theorem storeRead_txFrame : (storeRead d s).txFrame = s.txFrame := rfl
@[simp] theorem storeRead_txFrameLen : (storeRead d s).txFrameLen = s.txFrameLen := rfl
@[simp] theorem storeRead_polls : (storeRead d s).polls = s.polls := rfl
@[simp] theorem storeRead_retries : (storeRead d s).retries = s.retries := rfl
@[simp] theorem storeRead_lqRaw : (storeRead d s).lqRaw = s.lqRaw := rfl
@[simp] theorem storeRead_lqDbm : (storeRead d s).lqDbm = s.lqDbm := rfl
@[simp] theorem storeRead_lqClass : (storeRead d s).lqClass = s.lqClass := rfl
@[simp] theorem storeRead_rdData : (storeRead d s).rdData = d := rfl
@[simp] theorem storeRead_pfLen : (storeRead d s).pfLen = s.pfLen := rfl
@[simp] theorem storeRead_pfAddr : (storeRead d s).pfAddr = s.pfAddr := rfl
@[simp] theorem storeRead_pfPayload : (storeRead d s).pfPayload = s.pfPayload := rfl
@[simp] theorem storeRead_faulted : (storeRead d s).faulted = s.faulted := rfl
@[simp] theorem storeRead_written : (storeRead d s).written = { s.written with rdData := true } := rfl
@[simp] theorem storeRead_trace : (storeRead d s).trace = s.trace := rfl
@[simp] theorem storeRead_params : (storeRead d s).params = s.params := rfl
@[simp] theorem storeRead_env : (storeRead d s).env = s.env := rfl
@[simp] theorem storeRead_rxDraws : (storeRead d s).rxDraws = s.rxDraws := rfl
@[simp] theorem storeRead_faultCause : (storeRead d s).faultCause = s.faultCause := rfl
@[simp] theorem storeRead_reply : (storeRead d s).reply = s.reply := rfl
@[simp] theorem storeRead_busData : (storeRead d s).busData = s.busData := rfl
@[simp] theorem storeRead_hostIn : (storeRead d s).hostIn = s.hostIn := rfl
@[simp] theorem storeRead_busIn : (storeRead d s).busIn = s.busIn := rfl
end StoreRead

section SetLocalAddr
variable (a : Byte) (s : State)
@[simp] theorem setLocalAddr_linkMode : (setLocalAddr a s).linkMode = s.linkMode := rfl
@[simp] theorem setLocalAddr_localAddr : (setLocalAddr a s).localAddr = a := rfl
@[simp] theorem setLocalAddr_cs : (setLocalAddr a s).cs = s.cs := rfl
@[simp] theorem setLocalAddr_initialised : (setLocalAddr a s).initialised = s.initialised := rfl
@[simp] theorem setLocalAddr_configured : (setLocalAddr a s).configured = true := rfl
@[simp] theorem setLocalAddr_busy : (setLocalAddr a s).busy = s.busy := rfl
@[simp] theorem setLocalAddr_phase : (setLocalAddr a s).phase = s.phase := rfl
@[simp] theorem setLocalAddr_outcome : (setLocalAddr a s).outcome = s.outcome := rfl
@[simp] theorem setLocalAddr_detail : (setLocalAddr a s).detail = s.detail := rfl
@[simp] theorem setLocalAddr_rxLen : (setLocalAddr a s).rxLen = s.rxLen := rfl
@[simp] theorem setLocalAddr_rxAddr : (setLocalAddr a s).rxAddr = s.rxAddr := rfl
@[simp] theorem setLocalAddr_rxBuf : (setLocalAddr a s).rxBuf = s.rxBuf := rfl
@[simp] theorem setLocalAddr_rxRssiRaw : (setLocalAddr a s).rxRssiRaw = s.rxRssiRaw := rfl
@[simp] theorem setLocalAddr_rxStatus2 : (setLocalAddr a s).rxStatus2 = s.rxStatus2 := rfl
@[simp] theorem setLocalAddr_txFrame : (setLocalAddr a s).txFrame = s.txFrame := rfl
@[simp] theorem setLocalAddr_txFrameLen : (setLocalAddr a s).txFrameLen = s.txFrameLen := rfl
@[simp] theorem setLocalAddr_polls : (setLocalAddr a s).polls = s.polls := rfl
@[simp] theorem setLocalAddr_retries : (setLocalAddr a s).retries = s.retries := rfl
@[simp] theorem setLocalAddr_lqRaw : (setLocalAddr a s).lqRaw = s.lqRaw := rfl
@[simp] theorem setLocalAddr_lqDbm : (setLocalAddr a s).lqDbm = s.lqDbm := rfl
@[simp] theorem setLocalAddr_lqClass : (setLocalAddr a s).lqClass = s.lqClass := rfl
@[simp] theorem setLocalAddr_rdData : (setLocalAddr a s).rdData = s.rdData := rfl
@[simp] theorem setLocalAddr_pfLen : (setLocalAddr a s).pfLen = s.pfLen := rfl
@[simp] theorem setLocalAddr_pfAddr : (setLocalAddr a s).pfAddr = s.pfAddr := rfl
@[simp] theorem setLocalAddr_pfPayload : (setLocalAddr a s).pfPayload = s.pfPayload := rfl
@[simp] theorem setLocalAddr_faulted : (setLocalAddr a s).faulted = s.faulted := rfl
@[simp] theorem setLocalAddr_written : (setLocalAddr a s).written = { s.written with localAddr := true } := rfl
@[simp] theorem setLocalAddr_trace : (setLocalAddr a s).trace = s.trace := rfl
@[simp] theorem setLocalAddr_params : (setLocalAddr a s).params = s.params := rfl
@[simp] theorem setLocalAddr_env : (setLocalAddr a s).env = s.env := rfl
@[simp] theorem setLocalAddr_rxDraws : (setLocalAddr a s).rxDraws = s.rxDraws := rfl
@[simp] theorem setLocalAddr_faultCause : (setLocalAddr a s).faultCause = s.faultCause := rfl
@[simp] theorem setLocalAddr_reply : (setLocalAddr a s).reply = s.reply := rfl
@[simp] theorem setLocalAddr_busData : (setLocalAddr a s).busData = s.busData := rfl
@[simp] theorem setLocalAddr_hostIn : (setLocalAddr a s).hostIn = s.hostIn := rfl
@[simp] theorem setLocalAddr_busIn : (setLocalAddr a s).busIn = s.busIn := rfl
end SetLocalAddr

section StoreParsed
variable (r : List Byte) (s : State)
@[simp] theorem storeParsed_linkMode : (storeParsed r s).linkMode = s.linkMode := rfl
@[simp] theorem storeParsed_localAddr : (storeParsed r s).localAddr = s.localAddr := rfl
@[simp] theorem storeParsed_cs : (storeParsed r s).cs = s.cs := rfl
@[simp] theorem storeParsed_initialised : (storeParsed r s).initialised = s.initialised := rfl
@[simp] theorem storeParsed_configured : (storeParsed r s).configured = s.configured := rfl
@[simp] theorem storeParsed_busy : (storeParsed r s).busy = s.busy := rfl
@[simp] theorem storeParsed_phase : (storeParsed r s).phase = s.phase := rfl
@[simp] theorem storeParsed_outcome : (storeParsed r s).outcome = s.outcome := rfl
@[simp] theorem storeParsed_detail : (storeParsed r s).detail = s.detail := rfl
@[simp] theorem storeParsed_rxLen : (storeParsed r s).rxLen = s.rxLen := rfl
@[simp] theorem storeParsed_rxAddr : (storeParsed r s).rxAddr = s.rxAddr := rfl
@[simp] theorem storeParsed_rxBuf : (storeParsed r s).rxBuf = s.rxBuf := rfl
@[simp] theorem storeParsed_rxRssiRaw : (storeParsed r s).rxRssiRaw = s.rxRssiRaw := rfl
@[simp] theorem storeParsed_rxStatus2 : (storeParsed r s).rxStatus2 = s.rxStatus2 := rfl
@[simp] theorem storeParsed_txFrame : (storeParsed r s).txFrame = s.txFrame := rfl
@[simp] theorem storeParsed_txFrameLen : (storeParsed r s).txFrameLen = s.txFrameLen := rfl
@[simp] theorem storeParsed_polls : (storeParsed r s).polls = s.polls := rfl
@[simp] theorem storeParsed_retries : (storeParsed r s).retries = s.retries := rfl
@[simp] theorem storeParsed_lqRaw : (storeParsed r s).lqRaw = s.lqRaw := rfl
@[simp] theorem storeParsed_lqDbm : (storeParsed r s).lqDbm = s.lqDbm := rfl
@[simp] theorem storeParsed_lqClass : (storeParsed r s).lqClass = s.lqClass := rfl
@[simp] theorem storeParsed_rdData : (storeParsed r s).rdData = s.rdData := rfl
@[simp] theorem storeParsed_pfLen : (storeParsed r s).pfLen = byteAt r 0 := rfl
@[simp] theorem storeParsed_pfAddr : (storeParsed r s).pfAddr = byteAt r 1 := rfl
@[simp] theorem storeParsed_pfPayload : (storeParsed r s).pfPayload = payloadOf r (byteAt r 0).toNat := rfl
@[simp] theorem storeParsed_faulted : (storeParsed r s).faulted = s.faulted := rfl
@[simp] theorem storeParsed_written : (storeParsed r s).written = { s.written with pf := true } := rfl
@[simp] theorem storeParsed_trace : (storeParsed r s).trace = s.trace := rfl
@[simp] theorem storeParsed_params : (storeParsed r s).params = s.params := rfl
@[simp] theorem storeParsed_env : (storeParsed r s).env = s.env := rfl
@[simp] theorem storeParsed_rxDraws : (storeParsed r s).rxDraws = s.rxDraws := rfl
@[simp] theorem storeParsed_faultCause : (storeParsed r s).faultCause = s.faultCause := rfl
@[simp] theorem storeParsed_reply : (storeParsed r s).reply = s.reply := rfl
@[simp] theorem storeParsed_busData : (storeParsed r s).busData = s.busData := rfl
@[simp] theorem storeParsed_hostIn : (storeParsed r s).hostIn = s.hostIn := rfl
@[simp] theorem storeParsed_busIn : (storeParsed r s).busIn = s.busIn := rfl
end StoreParsed

section DrawReceive
variable (s : State)
@[simp] theorem drawReceive_linkMode : (drawReceive s).linkMode = s.linkMode := rfl
@[simp] theorem drawReceive_localAddr : (drawReceive s).localAddr = s.localAddr := rfl
@[simp] theorem drawReceive_cs : (drawReceive s).cs = s.cs := rfl
@[simp] theorem drawReceive_initialised : (drawReceive s).initialised = s.initialised := rfl
@[simp] theorem drawReceive_configured : (drawReceive s).configured = s.configured := rfl
@[simp] theorem drawReceive_busy : (drawReceive s).busy = s.busy := rfl
@[simp] theorem drawReceive_phase : (drawReceive s).phase = s.phase := rfl
@[simp] theorem drawReceive_outcome : (drawReceive s).outcome = s.outcome := rfl
@[simp] theorem drawReceive_detail : (drawReceive s).detail = s.detail := rfl
@[simp] theorem drawReceive_rxLen : (drawReceive s).rxLen = Config.rxDraw s.rxDraws 0 := rfl
@[simp] theorem drawReceive_rxAddr : (drawReceive s).rxAddr = Config.rxDraw s.rxDraws 1 := rfl
@[simp] theorem drawReceive_rxBuf : (drawReceive s).rxBuf = drawnBuf s.params.rxBufLen s.rxDraws := rfl
@[simp] theorem drawReceive_rxRssiRaw : (drawReceive s).rxRssiRaw = Config.rxDraw s.rxDraws 2 := rfl
@[simp] theorem drawReceive_rxStatus2 : (drawReceive s).rxStatus2 = Config.rxDraw s.rxDraws 3 := rfl
@[simp] theorem drawReceive_txFrame : (drawReceive s).txFrame = s.txFrame := rfl
@[simp] theorem drawReceive_txFrameLen : (drawReceive s).txFrameLen = s.txFrameLen := rfl
@[simp] theorem drawReceive_polls : (drawReceive s).polls = s.polls := rfl
@[simp] theorem drawReceive_retries : (drawReceive s).retries = s.retries := rfl
@[simp] theorem drawReceive_lqRaw : (drawReceive s).lqRaw = s.lqRaw := rfl
@[simp] theorem drawReceive_lqDbm : (drawReceive s).lqDbm = s.lqDbm := rfl
@[simp] theorem drawReceive_lqClass : (drawReceive s).lqClass = s.lqClass := rfl
@[simp] theorem drawReceive_rdData : (drawReceive s).rdData = s.rdData := rfl
@[simp] theorem drawReceive_pfLen : (drawReceive s).pfLen = s.pfLen := rfl
@[simp] theorem drawReceive_pfAddr : (drawReceive s).pfAddr = s.pfAddr := rfl
@[simp] theorem drawReceive_pfPayload : (drawReceive s).pfPayload = s.pfPayload := rfl
@[simp] theorem drawReceive_faulted : (drawReceive s).faulted = s.faulted := rfl
@[simp] theorem drawReceive_written : (drawReceive s).written = { s.written with rx := true } := rfl
@[simp] theorem drawReceive_trace : (drawReceive s).trace = s.trace := rfl
@[simp] theorem drawReceive_params : (drawReceive s).params = s.params := rfl
@[simp] theorem drawReceive_env : (drawReceive s).env = s.env := rfl
@[simp] theorem drawReceive_rxDraws : (drawReceive s).rxDraws = s.rxDraws + 1 := rfl
@[simp] theorem drawReceive_faultCause : (drawReceive s).faultCause = s.faultCause := rfl
@[simp] theorem drawReceive_reply : (drawReceive s).reply = s.reply := rfl
@[simp] theorem drawReceive_busData : (drawReceive s).busData = s.busData := rfl
@[simp] theorem drawReceive_hostIn : (drawReceive s).hostIn = s.hostIn := rfl
@[simp] theorem drawReceive_busIn : (drawReceive s).busIn = s.busIn := rfl
end DrawReceive

section ZeroRxBuf
variable (s : State)
@[simp] theorem zeroRxBuf_linkMode : (zeroRxBuf s).linkMode = s.linkMode := rfl
@[simp] theorem zeroRxBuf_localAddr : (zeroRxBuf s).localAddr = s.localAddr := rfl
@[simp] theorem zeroRxBuf_cs : (zeroRxBuf s).cs = s.cs := rfl
@[simp] theorem zeroRxBuf_initialised : (zeroRxBuf s).initialised = s.initialised := rfl
@[simp] theorem zeroRxBuf_configured : (zeroRxBuf s).configured = s.configured := rfl
@[simp] theorem zeroRxBuf_busy : (zeroRxBuf s).busy = s.busy := rfl
@[simp] theorem zeroRxBuf_phase : (zeroRxBuf s).phase = s.phase := rfl
@[simp] theorem zeroRxBuf_outcome : (zeroRxBuf s).outcome = s.outcome := rfl
@[simp] theorem zeroRxBuf_detail : (zeroRxBuf s).detail = s.detail := rfl
@[simp] theorem zeroRxBuf_rxLen : (zeroRxBuf s).rxLen = s.rxLen := rfl
@[simp] theorem zeroRxBuf_rxAddr : (zeroRxBuf s).rxAddr = s.rxAddr := rfl
@[simp] theorem zeroRxBuf_rxBuf : (zeroRxBuf s).rxBuf = List.replicate s.params.rxBufLen 0#8 := rfl
@[simp] theorem zeroRxBuf_rxRssiRaw : (zeroRxBuf s).rxRssiRaw = s.rxRssiRaw := rfl
@[simp] theorem zeroRxBuf_rxStatus2 : (zeroRxBuf s).rxStatus2 = s.rxStatus2 := rfl
@[simp] theorem zeroRxBuf_txFrame : (zeroRxBuf s).txFrame = s.txFrame := rfl
@[simp] theorem zeroRxBuf_txFrameLen : (zeroRxBuf s).txFrameLen = s.txFrameLen := rfl
@[simp] theorem zeroRxBuf_polls : (zeroRxBuf s).polls = s.polls := rfl
@[simp] theorem zeroRxBuf_retries : (zeroRxBuf s).retries = s.retries := rfl
@[simp] theorem zeroRxBuf_lqRaw : (zeroRxBuf s).lqRaw = s.lqRaw := rfl
@[simp] theorem zeroRxBuf_lqDbm : (zeroRxBuf s).lqDbm = s.lqDbm := rfl
@[simp] theorem zeroRxBuf_lqClass : (zeroRxBuf s).lqClass = s.lqClass := rfl
@[simp] theorem zeroRxBuf_rdData : (zeroRxBuf s).rdData = s.rdData := rfl
@[simp] theorem zeroRxBuf_pfLen : (zeroRxBuf s).pfLen = s.pfLen := rfl
@[simp] theorem zeroRxBuf_pfAddr : (zeroRxBuf s).pfAddr = s.pfAddr := rfl
@[simp] theorem zeroRxBuf_pfPayload : (zeroRxBuf s).pfPayload = s.pfPayload := rfl
@[simp] theorem zeroRxBuf_faulted : (zeroRxBuf s).faulted = s.faulted := rfl
@[simp] theorem zeroRxBuf_written : (zeroRxBuf s).written = s.written := rfl
@[simp] theorem zeroRxBuf_trace : (zeroRxBuf s).trace = s.trace := rfl
@[simp] theorem zeroRxBuf_params : (zeroRxBuf s).params = s.params := rfl
@[simp] theorem zeroRxBuf_env : (zeroRxBuf s).env = s.env := rfl
@[simp] theorem zeroRxBuf_rxDraws : (zeroRxBuf s).rxDraws = s.rxDraws := rfl
@[simp] theorem zeroRxBuf_faultCause : (zeroRxBuf s).faultCause = s.faultCause := rfl
@[simp] theorem zeroRxBuf_reply : (zeroRxBuf s).reply = s.reply := rfl
@[simp] theorem zeroRxBuf_busData : (zeroRxBuf s).busData = s.busData := rfl
@[simp] theorem zeroRxBuf_hostIn : (zeroRxBuf s).hostIn = s.hostIn := rfl
@[simp] theorem zeroRxBuf_busIn : (zeroRxBuf s).busIn = s.busIn := rfl
end ZeroRxBuf

section Deliver
variable (r : List Byte) (s : State)
@[simp] theorem deliver_linkMode : (deliver r s).linkMode = s.linkMode := rfl
@[simp] theorem deliver_localAddr : (deliver r s).localAddr = s.localAddr := rfl
@[simp] theorem deliver_cs : (deliver r s).cs = s.cs := rfl
@[simp] theorem deliver_initialised : (deliver r s).initialised = s.initialised := rfl
@[simp] theorem deliver_configured : (deliver r s).configured = s.configured := rfl
@[simp] theorem deliver_busy : (deliver r s).busy = s.busy := rfl
@[simp] theorem deliver_phase : (deliver r s).phase = s.phase := rfl
@[simp] theorem deliver_outcome : (deliver r s).outcome = s.outcome := rfl
@[simp] theorem deliver_detail : (deliver r s).detail = s.detail := rfl
@[simp] theorem deliver_rxLen : (deliver r s).rxLen = byteAt r 0 := rfl
@[simp] theorem deliver_rxAddr : (deliver r s).rxAddr = byteAt r 1 := rfl
@[simp] theorem deliver_rxBuf :
    (deliver r s).rxBuf =
      payloadOf r (byteAt r 0).toNat ++ s.rxBuf.drop (payloadOf r (byteAt r 0).toNat).length := rfl
@[simp] theorem deliver_rxRssiRaw : (deliver r s).rxRssiRaw = byteAt r ((byteAt r 0).toNat + 1) := rfl
@[simp] theorem deliver_rxStatus2 : (deliver r s).rxStatus2 = byteAt r ((byteAt r 0).toNat + 2) := rfl
@[simp] theorem deliver_txFrame : (deliver r s).txFrame = s.txFrame := rfl
@[simp] theorem deliver_txFrameLen : (deliver r s).txFrameLen = s.txFrameLen := rfl
@[simp] theorem deliver_polls : (deliver r s).polls = s.polls := rfl
@[simp] theorem deliver_retries : (deliver r s).retries = s.retries := rfl
@[simp] theorem deliver_lqRaw : (deliver r s).lqRaw = s.lqRaw := rfl
@[simp] theorem deliver_lqDbm : (deliver r s).lqDbm = s.lqDbm := rfl
@[simp] theorem deliver_lqClass : (deliver r s).lqClass = s.lqClass := rfl
@[simp] theorem deliver_rdData : (deliver r s).rdData = s.rdData := rfl
@[simp] theorem deliver_pfLen : (deliver r s).pfLen = s.pfLen := rfl
@[simp] theorem deliver_pfAddr : (deliver r s).pfAddr = s.pfAddr := rfl
@[simp] theorem deliver_pfPayload : (deliver r s).pfPayload = s.pfPayload := rfl
@[simp] theorem deliver_faulted : (deliver r s).faulted = s.faulted := rfl
@[simp] theorem deliver_written : (deliver r s).written = s.written := rfl
@[simp] theorem deliver_trace : (deliver r s).trace = s.trace := rfl
@[simp] theorem deliver_params : (deliver r s).params = s.params := rfl
@[simp] theorem deliver_env : (deliver r s).env = s.env := rfl
@[simp] theorem deliver_rxDraws : (deliver r s).rxDraws = s.rxDraws := rfl
@[simp] theorem deliver_faultCause : (deliver r s).faultCause = s.faultCause := rfl
@[simp] theorem deliver_reply : (deliver r s).reply = s.reply := rfl
@[simp] theorem deliver_busData : (deliver r s).busData = s.busData := rfl
@[simp] theorem deliver_hostIn : (deliver r s).hostIn = s.hostIn := rfl
@[simp] theorem deliver_busIn : (deliver r s).busIn = s.busIn := rfl
end Deliver

section StoreDbm
variable (d : Int) (s : State)
@[simp] theorem storeDbm_linkMode : (storeDbm d s).linkMode = s.linkMode := rfl
@[simp] theorem storeDbm_localAddr : (storeDbm d s).localAddr = s.localAddr := rfl
@[simp] theorem storeDbm_cs : (storeDbm d s).cs = s.cs := rfl
@[simp] theorem storeDbm_initialised : (storeDbm d s).initialised = s.initialised := rfl
@[simp] theorem storeDbm_configured : (storeDbm d s).configured = s.configured := rfl
@[simp] theorem storeDbm_busy : (storeDbm d s).busy = s.busy := rfl
@[simp] theorem storeDbm_phase : (storeDbm d s).phase = s.phase := rfl
@[simp] theorem storeDbm_outcome : (storeDbm d s).outcome = s.outcome := rfl
@[simp] theorem storeDbm_detail : (storeDbm d s).detail = s.detail := rfl
@[simp] theorem storeDbm_rxLen : (storeDbm d s).rxLen = s.rxLen := rfl
@[simp] theorem storeDbm_rxAddr : (storeDbm d s).rxAddr = s.rxAddr := rfl
@[simp] theorem storeDbm_rxBuf : (storeDbm d s).rxBuf = s.rxBuf := rfl
@[simp] theorem storeDbm_rxRssiRaw : (storeDbm d s).rxRssiRaw = s.rxRssiRaw := rfl
@[simp] theorem storeDbm_rxStatus2 : (storeDbm d s).rxStatus2 = s.rxStatus2 := rfl
@[simp] theorem storeDbm_txFrame : (storeDbm d s).txFrame = s.txFrame := rfl
@[simp] theorem storeDbm_txFrameLen : (storeDbm d s).txFrameLen = s.txFrameLen := rfl
@[simp] theorem storeDbm_polls : (storeDbm d s).polls = s.polls := rfl
@[simp] theorem storeDbm_retries : (storeDbm d s).retries = s.retries := rfl
@[simp] theorem storeDbm_lqRaw : (storeDbm d s).lqRaw = s.lqRaw := rfl
@[simp] theorem storeDbm_lqDbm : (storeDbm d s).lqDbm = d := rfl
@[simp] theorem storeDbm_lqClass : (storeDbm d s).lqClass = s.lqClass := rfl
@[simp] theorem storeDbm_rdData : (storeDbm d s).rdData = s.rdData := rfl
@[simp] theorem storeDbm_pfLen : (storeDbm d s).pfLen = s.pfLen := rfl
@[simp] theorem storeDbm_pfAddr : (storeDbm d s).pfAddr = s.pfAddr := rfl
@[simp] theorem storeDbm_pfPayload : (storeDbm d s).pfPayload = s.pfPayload := rfl
@[simp] theorem storeDbm_faulted : (storeDbm d s).faulted = s.faulted := rfl
@[simp] theorem storeDbm_written : (storeDbm d s).written = { s.written with lqDbm := true } := rfl
@[simp] theorem storeDbm_trace : (storeDbm d s).trace = s.trace := rfl
@[simp] theorem storeDbm_params : (storeDbm d s).params = s.params := rfl
@[simp] theorem storeDbm_env : (storeDbm d s).env = s.env := rfl
@[simp] theorem storeDbm_rxDraws : (storeDbm d s).rxDraws = s.rxDraws := rfl
@[simp] theorem storeDbm_faultCause : (storeDbm d s).faultCause = s.faultCause := rfl
@[simp] theorem storeDbm_reply : (storeDbm d s).reply = s.reply := rfl
@[simp] theorem storeDbm_busData : (storeDbm d s).busData = s.busData := rfl
@[simp] theorem storeDbm_hostIn : (storeDbm d s).hostIn = s.hostIn := rfl
@[simp] theorem storeDbm_busIn : (storeDbm d s).busIn = s.busIn := rfl
end StoreDbm

section StoreClass
variable (c : LqClass) (s : State)
@[simp] theorem storeClass_linkMode : (storeClass c s).linkMode = s.linkMode := rfl
@[simp] theorem storeClass_localAddr : (storeClass c s).localAddr = s.localAddr := rfl
@[simp] theorem storeClass_cs : (storeClass c s).cs = s.cs := rfl
@[simp] theorem storeClass_initialised : (storeClass c s).initialised = s.initialised := rfl
@[simp] theorem storeClass_configured : (storeClass c s).configured = s.configured := rfl
@[simp] theorem storeClass_busy : (storeClass c s).busy = s.busy := rfl
@[simp] theorem storeClass_phase : (storeClass c s).phase = s.phase := rfl
@[simp] theorem storeClass_outcome : (storeClass c s).outcome = s.outcome := rfl
@[simp] theorem storeClass_detail : (storeClass c s).detail = s.detail := rfl
@[simp] theorem storeClass_rxLen : (storeClass c s).rxLen = s.rxLen := rfl
@[simp] theorem storeClass_rxAddr : (storeClass c s).rxAddr = s.rxAddr := rfl
@[simp] theorem storeClass_rxBuf : (storeClass c s).rxBuf = s.rxBuf := rfl
@[simp] theorem storeClass_rxRssiRaw : (storeClass c s).rxRssiRaw = s.rxRssiRaw := rfl
@[simp] theorem storeClass_rxStatus2 : (storeClass c s).rxStatus2 = s.rxStatus2 := rfl
@[simp] theorem storeClass_txFrame : (storeClass c s).txFrame = s.txFrame := rfl
@[simp] theorem storeClass_txFrameLen : (storeClass c s).txFrameLen = s.txFrameLen := rfl
@[simp] theorem storeClass_polls : (storeClass c s).polls = s.polls := rfl
@[simp] theorem storeClass_retries : (storeClass c s).retries = s.retries := rfl
@[simp] theorem storeClass_lqRaw : (storeClass c s).lqRaw = s.lqRaw := rfl
@[simp] theorem storeClass_lqDbm : (storeClass c s).lqDbm = s.lqDbm := rfl
@[simp] theorem storeClass_lqClass : (storeClass c s).lqClass = c := rfl
@[simp] theorem storeClass_rdData : (storeClass c s).rdData = s.rdData := rfl
@[simp] theorem storeClass_pfLen : (storeClass c s).pfLen = s.pfLen := rfl
@[simp] theorem storeClass_pfAddr : (storeClass c s).pfAddr = s.pfAddr := rfl
@[simp] theorem storeClass_pfPayload : (storeClass c s).pfPayload = s.pfPayload := rfl
@[simp] theorem storeClass_faulted : (storeClass c s).faulted = s.faulted := rfl
@[simp] theorem storeClass_written : (storeClass c s).written = { s.written with lqClass := true } := rfl
@[simp] theorem storeClass_trace : (storeClass c s).trace = s.trace := rfl
@[simp] theorem storeClass_params : (storeClass c s).params = s.params := rfl
@[simp] theorem storeClass_env : (storeClass c s).env = s.env := rfl
@[simp] theorem storeClass_rxDraws : (storeClass c s).rxDraws = s.rxDraws := rfl
@[simp] theorem storeClass_faultCause : (storeClass c s).faultCause = s.faultCause := rfl
@[simp] theorem storeClass_reply : (storeClass c s).reply = s.reply := rfl
@[simp] theorem storeClass_busData : (storeClass c s).busData = s.busData := rfl
@[simp] theorem storeClass_hostIn : (storeClass c s).hostIn = s.hostIn := rfl
@[simp] theorem storeClass_busIn : (storeClass c s).busIn = s.busIn := rfl
end StoreClass

section StoreRaw
variable (v : Byte) (s : State)
@[simp] theorem storeRaw_linkMode : (storeRaw v s).linkMode = s.linkMode := rfl
@[simp] theorem storeRaw_localAddr : (storeRaw v s).localAddr = s.localAddr := rfl
@[simp] theorem storeRaw_cs : (storeRaw v s).cs = s.cs := rfl
@[simp] theorem storeRaw_initialised : (storeRaw v s).initialised = s.initialised := rfl
@[simp] theorem storeRaw_configured : (storeRaw v s).configured = s.configured := rfl
@[simp] theorem storeRaw_busy : (storeRaw v s).busy = s.busy := rfl
@[simp] theorem storeRaw_phase : (storeRaw v s).phase = s.phase := rfl
@[simp] theorem storeRaw_outcome : (storeRaw v s).outcome = s.outcome := rfl
@[simp] theorem storeRaw_detail : (storeRaw v s).detail = s.detail := rfl
@[simp] theorem storeRaw_rxLen : (storeRaw v s).rxLen = s.rxLen := rfl
@[simp] theorem storeRaw_rxAddr : (storeRaw v s).rxAddr = s.rxAddr := rfl
@[simp] theorem storeRaw_rxBuf : (storeRaw v s).rxBuf = s.rxBuf := rfl
@[simp] theorem storeRaw_rxRssiRaw : (storeRaw v s).rxRssiRaw = s.rxRssiRaw := rfl
@[simp] theorem storeRaw_rxStatus2 : (storeRaw v s).rxStatus2 = s.rxStatus2 := rfl
@[simp] theorem storeRaw_txFrame : (storeRaw v s).txFrame = s.txFrame := rfl
@[simp] theorem storeRaw_txFrameLen : (storeRaw v s).txFrameLen = s.txFrameLen := rfl
@[simp] theorem storeRaw_polls : (storeRaw v s).polls = s.polls := rfl
@[simp] theorem storeRaw_retries : (storeRaw v s).retries = s.retries := rfl
@[simp] theorem storeRaw_lqRaw : (storeRaw v s).lqRaw = v := rfl
@[simp] theorem storeRaw_lqDbm : (storeRaw v s).lqDbm = s.lqDbm := rfl
@[simp] theorem storeRaw_lqClass : (storeRaw v s).lqClass = s.lqClass := rfl
@[simp] theorem storeRaw_rdData : (storeRaw v s).rdData = s.rdData := rfl
@[simp] theorem storeRaw_pfLen : (storeRaw v s).pfLen = s.pfLen := rfl
@[simp] theorem storeRaw_pfAddr : (storeRaw v s).pfAddr = s.pfAddr := rfl
@[simp] theorem storeRaw_pfPayload : (storeRaw v s).pfPayload = s.pfPayload := rfl
@[simp] theorem storeRaw_faulted : (storeRaw v s).faulted = s.faulted := rfl
@[simp] theorem storeRaw_written : (storeRaw v s).written = { s.written with lqRaw := true } := rfl
@[simp] theorem storeRaw_trace : (storeRaw v s).trace = s.trace := rfl
@[simp] theorem storeRaw_params : (storeRaw v s).params = s.params := rfl
@[simp] theorem storeRaw_env : (storeRaw v s).env = s.env := rfl
@[simp] theorem storeRaw_rxDraws : (storeRaw v s).rxDraws = s.rxDraws := rfl
@[simp] theorem storeRaw_faultCause : (storeRaw v s).faultCause = s.faultCause := rfl
@[simp] theorem storeRaw_reply : (storeRaw v s).reply = s.reply := rfl
@[simp] theorem storeRaw_busData : (storeRaw v s).busData = s.busData := rfl
@[simp] theorem storeRaw_hostIn : (storeRaw v s).hostIn = s.hostIn := rfl
@[simp] theorem storeRaw_busIn : (storeRaw v s).busIn = s.busIn := rfl
end StoreRaw

section Xfer
variable (mosi : List Byte) (s : State)
@[simp] theorem xfer_answer : (xfer mosi s).1 = (s.busAnswer mosi).1 := rfl
@[simp] theorem xfer_linkMode : (xfer mosi s).2.linkMode = s.linkMode := rfl
@[simp] theorem xfer_localAddr : (xfer mosi s).2.localAddr = s.localAddr := rfl
@[simp] theorem xfer_cs : (xfer mosi s).2.cs = true := rfl
@[simp] theorem xfer_initialised : (xfer mosi s).2.initialised = s.initialised := rfl
@[simp] theorem xfer_configured : (xfer mosi s).2.configured = s.configured := rfl
@[simp] theorem xfer_busy : (xfer mosi s).2.busy = s.busy := rfl
@[simp] theorem xfer_phase : (xfer mosi s).2.phase = s.phase := rfl
@[simp] theorem xfer_outcome : (xfer mosi s).2.outcome = s.outcome := rfl
@[simp] theorem xfer_detail : (xfer mosi s).2.detail = s.detail := rfl
@[simp] theorem xfer_rxLen : (xfer mosi s).2.rxLen = s.rxLen := rfl
@[simp] theorem xfer_rxAddr : (xfer mosi s).2.rxAddr = s.rxAddr := rfl
@[simp] theorem xfer_rxBuf : (xfer mosi s).2.rxBuf = s.rxBuf := rfl
@[simp] theorem xfer_rxRssiRaw : (xfer mosi s).2.rxRssiRaw = s.rxRssiRaw := rfl
@[simp] theorem xfer_rxStatus2 : (xfer mosi s).2.rxStatus2 = s.rxStatus2 := rfl
@[simp] theorem xfer_txFrame : (xfer mosi s).2.txFrame = s.txFrame := rfl
@[simp] theorem xfer_txFrameLen : (xfer mosi s).2.txFrameLen = s.txFrameLen := rfl
@[simp] theorem xfer_polls : (xfer mosi s).2.polls = s.polls := rfl
@[simp] theorem xfer_retries : (xfer mosi s).2.retries = s.retries := rfl
@[simp] theorem xfer_lqRaw : (xfer mosi s).2.lqRaw = s.lqRaw := rfl
@[simp] theorem xfer_lqDbm : (xfer mosi s).2.lqDbm = s.lqDbm := rfl
@[simp] theorem xfer_lqClass : (xfer mosi s).2.lqClass = s.lqClass := rfl
@[simp] theorem xfer_rdData : (xfer mosi s).2.rdData = s.rdData := rfl
@[simp] theorem xfer_pfLen : (xfer mosi s).2.pfLen = s.pfLen := rfl
@[simp] theorem xfer_pfAddr : (xfer mosi s).2.pfAddr = s.pfAddr := rfl
@[simp] theorem xfer_pfPayload : (xfer mosi s).2.pfPayload = s.pfPayload := rfl
@[simp] theorem xfer_faulted : (xfer mosi s).2.faulted = s.faulted := rfl
@[simp] theorem xfer_written : (xfer mosi s).2.written = s.written := rfl
@[simp] theorem xfer_trace : (xfer mosi s).2.trace = s.trace ++ transactionEvents mosi (s.busAnswer mosi).1 := rfl
@[simp] theorem xfer_params : (xfer mosi s).2.params = s.params := rfl
@[simp] theorem xfer_env : (xfer mosi s).2.env = (s.busAnswer mosi).2 := rfl
@[simp] theorem xfer_rxDraws : (xfer mosi s).2.rxDraws = s.rxDraws := rfl
@[simp] theorem xfer_faultCause : (xfer mosi s).2.faultCause = s.faultCause := rfl
@[simp] theorem xfer_reply : (xfer mosi s).2.reply = s.reply := rfl
@[simp] theorem xfer_busData : (xfer mosi s).2.busData = s.busData := rfl
@[simp] theorem xfer_hostIn : (xfer mosi s).2.hostIn = s.hostIn := rfl
@[simp] theorem xfer_busIn : (xfer mosi s).2.busIn = s.busIn := rfl
end Xfer

section SampleLine
variable (s : State)
@[simp] theorem sampleLine_level : (sampleLine s).1 = s.lineAnswer.1 := rfl
@[simp] theorem sampleLine_linkMode : (sampleLine s).2.linkMode = s.linkMode := rfl
@[simp] theorem sampleLine_localAddr : (sampleLine s).2.localAddr = s.localAddr := rfl
@[simp] theorem sampleLine_cs : (sampleLine s).2.cs = s.cs := rfl
@[simp] theorem sampleLine_initialised : (sampleLine s).2.initialised = s.initialised := rfl
@[simp] theorem sampleLine_configured : (sampleLine s).2.configured = s.configured := rfl
@[simp] theorem sampleLine_busy : (sampleLine s).2.busy = s.busy := rfl
@[simp] theorem sampleLine_phase : (sampleLine s).2.phase = s.phase := rfl
@[simp] theorem sampleLine_outcome : (sampleLine s).2.outcome = s.outcome := rfl
@[simp] theorem sampleLine_detail : (sampleLine s).2.detail = s.detail := rfl
@[simp] theorem sampleLine_rxLen : (sampleLine s).2.rxLen = s.rxLen := rfl
@[simp] theorem sampleLine_rxAddr : (sampleLine s).2.rxAddr = s.rxAddr := rfl
@[simp] theorem sampleLine_rxBuf : (sampleLine s).2.rxBuf = s.rxBuf := rfl
@[simp] theorem sampleLine_rxRssiRaw : (sampleLine s).2.rxRssiRaw = s.rxRssiRaw := rfl
@[simp] theorem sampleLine_rxStatus2 : (sampleLine s).2.rxStatus2 = s.rxStatus2 := rfl
@[simp] theorem sampleLine_txFrame : (sampleLine s).2.txFrame = s.txFrame := rfl
@[simp] theorem sampleLine_txFrameLen : (sampleLine s).2.txFrameLen = s.txFrameLen := rfl
@[simp] theorem sampleLine_polls : (sampleLine s).2.polls = s.polls := rfl
@[simp] theorem sampleLine_retries : (sampleLine s).2.retries = s.retries := rfl
@[simp] theorem sampleLine_lqRaw : (sampleLine s).2.lqRaw = s.lqRaw := rfl
@[simp] theorem sampleLine_lqDbm : (sampleLine s).2.lqDbm = s.lqDbm := rfl
@[simp] theorem sampleLine_lqClass : (sampleLine s).2.lqClass = s.lqClass := rfl
@[simp] theorem sampleLine_rdData : (sampleLine s).2.rdData = s.rdData := rfl
@[simp] theorem sampleLine_pfLen : (sampleLine s).2.pfLen = s.pfLen := rfl
@[simp] theorem sampleLine_pfAddr : (sampleLine s).2.pfAddr = s.pfAddr := rfl
@[simp] theorem sampleLine_pfPayload : (sampleLine s).2.pfPayload = s.pfPayload := rfl
@[simp] theorem sampleLine_faulted : (sampleLine s).2.faulted = s.faulted := rfl
@[simp] theorem sampleLine_written : (sampleLine s).2.written = s.written := rfl
@[simp] theorem sampleLine_trace : (sampleLine s).2.trace = s.trace ++ [.sample s.lineAnswer.1] := rfl
@[simp] theorem sampleLine_params : (sampleLine s).2.params = s.params := rfl
@[simp] theorem sampleLine_env : (sampleLine s).2.env = s.lineAnswer.2 := rfl
@[simp] theorem sampleLine_rxDraws : (sampleLine s).2.rxDraws = s.rxDraws := rfl
@[simp] theorem sampleLine_faultCause : (sampleLine s).2.faultCause = s.faultCause := rfl
@[simp] theorem sampleLine_reply : (sampleLine s).2.reply = s.reply := rfl
@[simp] theorem sampleLine_busData : (sampleLine s).2.busData = s.busData := rfl
@[simp] theorem sampleLine_hostIn : (sampleLine s).2.hostIn = s.hostIn := rfl
@[simp] theorem sampleLine_busIn : (sampleLine s).2.busIn = s.busIn := rfl
end SampleLine

section SetPolls
variable (n : Nat) (s : State)
@[simp] theorem setPolls_linkMode : (setPolls n s).linkMode = s.linkMode := rfl
@[simp] theorem setPolls_localAddr : (setPolls n s).localAddr = s.localAddr := rfl
@[simp] theorem setPolls_cs : (setPolls n s).cs = s.cs := rfl
@[simp] theorem setPolls_initialised : (setPolls n s).initialised = s.initialised := rfl
@[simp] theorem setPolls_configured : (setPolls n s).configured = s.configured := rfl
@[simp] theorem setPolls_busy : (setPolls n s).busy = s.busy := rfl
@[simp] theorem setPolls_phase : (setPolls n s).phase = s.phase := rfl
@[simp] theorem setPolls_outcome : (setPolls n s).outcome = s.outcome := rfl
@[simp] theorem setPolls_detail : (setPolls n s).detail = s.detail := rfl
@[simp] theorem setPolls_rxLen : (setPolls n s).rxLen = s.rxLen := rfl
@[simp] theorem setPolls_rxAddr : (setPolls n s).rxAddr = s.rxAddr := rfl
@[simp] theorem setPolls_rxBuf : (setPolls n s).rxBuf = s.rxBuf := rfl
@[simp] theorem setPolls_rxRssiRaw : (setPolls n s).rxRssiRaw = s.rxRssiRaw := rfl
@[simp] theorem setPolls_rxStatus2 : (setPolls n s).rxStatus2 = s.rxStatus2 := rfl
@[simp] theorem setPolls_txFrame : (setPolls n s).txFrame = s.txFrame := rfl
@[simp] theorem setPolls_txFrameLen : (setPolls n s).txFrameLen = s.txFrameLen := rfl
@[simp] theorem setPolls_polls : (setPolls n s).polls = n := rfl
@[simp] theorem setPolls_retries : (setPolls n s).retries = s.retries := rfl
@[simp] theorem setPolls_lqRaw : (setPolls n s).lqRaw = s.lqRaw := rfl
@[simp] theorem setPolls_lqDbm : (setPolls n s).lqDbm = s.lqDbm := rfl
@[simp] theorem setPolls_lqClass : (setPolls n s).lqClass = s.lqClass := rfl
@[simp] theorem setPolls_rdData : (setPolls n s).rdData = s.rdData := rfl
@[simp] theorem setPolls_pfLen : (setPolls n s).pfLen = s.pfLen := rfl
@[simp] theorem setPolls_pfAddr : (setPolls n s).pfAddr = s.pfAddr := rfl
@[simp] theorem setPolls_pfPayload : (setPolls n s).pfPayload = s.pfPayload := rfl
@[simp] theorem setPolls_faulted : (setPolls n s).faulted = s.faulted := rfl
@[simp] theorem setPolls_written : (setPolls n s).written = s.written := rfl
@[simp] theorem setPolls_trace : (setPolls n s).trace = s.trace := rfl
@[simp] theorem setPolls_params : (setPolls n s).params = s.params := rfl
@[simp] theorem setPolls_env : (setPolls n s).env = s.env := rfl
@[simp] theorem setPolls_rxDraws : (setPolls n s).rxDraws = s.rxDraws := rfl
@[simp] theorem setPolls_faultCause : (setPolls n s).faultCause = s.faultCause := rfl
@[simp] theorem setPolls_reply : (setPolls n s).reply = s.reply := rfl
@[simp] theorem setPolls_busData : (setPolls n s).busData = s.busData := rfl
@[simp] theorem setPolls_hostIn : (setPolls n s).hostIn = s.hostIn := rfl
@[simp] theorem setPolls_busIn : (setPolls n s).busIn = s.busIn := rfl
end SetPolls

section SetRetries
variable (n : Nat) (s : State)
@[simp] theorem setRetries_linkMode : (setRetries n s).linkMode = s.linkMode := rfl
@[simp] theorem setRetries_localAddr : (setRetries n s).localAddr = s.localAddr := rfl
@[simp] theorem setRetries_cs : (setRetries n s).cs = s.cs := rfl
@[simp] theorem setRetries_initialised : (setRetries n s).initialised = s.initialised := rfl
@[simp] theorem setRetries_configured : (setRetries n s).configured = s.configured := rfl
@[simp] theorem setRetries_busy : (setRetries n s).busy = s.busy := rfl
@[simp] theorem setRetries_phase : (setRetries n s).phase = s.phase := rfl
@[simp] theorem setRetries_outcome : (setRetries n s).outcome = s.outcome := rfl
@[simp] theorem setRetries_detail : (setRetries n s).detail = s.detail := rfl
@[simp] theorem setRetries_rxLen : (setRetries n s).rxLen = s.rxLen := rfl
@[simp] theorem setRetries_rxAddr : (setRetries n s).rxAddr = s.rxAddr := rfl
@[simp] theorem setRetries_rxBuf : (setRetries n s).rxBuf = s.rxBuf := rfl
@[simp] theorem setRetries_rxRssiRaw : (setRetries n s).rxRssiRaw = s.rxRssiRaw := rfl
@[simp] theorem setRetries_rxStatus2 : (setRetries n s).rxStatus2 = s.rxStatus2 := rfl
@[simp] theorem setRetries_txFrame : (setRetries n s).txFrame = s.txFrame := rfl
@[simp] theorem setRetries_txFrameLen : (setRetries n s).txFrameLen = s.txFrameLen := rfl
@[simp] theorem setRetries_polls : (setRetries n s).polls = s.polls := rfl
@[simp] theorem setRetries_retries : (setRetries n s).retries = n := rfl
@[simp] theorem setRetries_lqRaw : (setRetries n s).lqRaw = s.lqRaw := rfl
@[simp] theorem setRetries_lqDbm : (setRetries n s).lqDbm = s.lqDbm := rfl
@[simp] theorem setRetries_lqClass : (setRetries n s).lqClass = s.lqClass := rfl
@[simp] theorem setRetries_rdData : (setRetries n s).rdData = s.rdData := rfl
@[simp] theorem setRetries_pfLen : (setRetries n s).pfLen = s.pfLen := rfl
@[simp] theorem setRetries_pfAddr : (setRetries n s).pfAddr = s.pfAddr := rfl
@[simp] theorem setRetries_pfPayload : (setRetries n s).pfPayload = s.pfPayload := rfl
@[simp] theorem setRetries_faulted : (setRetries n s).faulted = s.faulted := rfl
@[simp] theorem setRetries_written : (setRetries n s).written = s.written := rfl
@[simp] theorem setRetries_trace : (setRetries n s).trace = s.trace := rfl
@[simp] theorem setRetries_params : (setRetries n s).params = s.params := rfl
@[simp] theorem setRetries_env : (setRetries n s).env = s.env := rfl
@[simp] theorem setRetries_rxDraws : (setRetries n s).rxDraws = s.rxDraws := rfl
@[simp] theorem setRetries_faultCause : (setRetries n s).faultCause = s.faultCause := rfl
@[simp] theorem setRetries_reply : (setRetries n s).reply = s.reply := rfl
@[simp] theorem setRetries_busData : (setRetries n s).busData = s.busData := rfl
@[simp] theorem setRetries_hostIn : (setRetries n s).hostIn = s.hostIn := rfl
@[simp] theorem setRetries_busIn : (setRetries n s).busIn = s.busIn := rfl
end SetRetries

section SetBusy
variable (s : State)
@[simp] theorem setBusy_linkMode : (setBusy s).linkMode = s.linkMode := rfl
@[simp] theorem setBusy_localAddr : (setBusy s).localAddr = s.localAddr := rfl
@[simp] theorem setBusy_cs : (setBusy s).cs = s.cs := rfl
@[simp] theorem setBusy_initialised : (setBusy s).initialised = s.initialised := rfl
@[simp] theorem setBusy_configured : (setBusy s).configured = s.configured := rfl
@[simp] theorem setBusy_busy : (setBusy s).busy = true := rfl
@[simp] theorem setBusy_phase : (setBusy s).phase = s.phase := rfl
@[simp] theorem setBusy_outcome : (setBusy s).outcome = s.outcome := rfl
@[simp] theorem setBusy_detail : (setBusy s).detail = s.detail := rfl
@[simp] theorem setBusy_rxLen : (setBusy s).rxLen = s.rxLen := rfl
@[simp] theorem setBusy_rxAddr : (setBusy s).rxAddr = s.rxAddr := rfl
@[simp] theorem setBusy_rxBuf : (setBusy s).rxBuf = s.rxBuf := rfl
@[simp] theorem setBusy_rxRssiRaw : (setBusy s).rxRssiRaw = s.rxRssiRaw := rfl
@[simp] theorem setBusy_rxStatus2 : (setBusy s).rxStatus2 = s.rxStatus2 := rfl
@[simp] theorem setBusy_txFrame : (setBusy s).txFrame = s.txFrame := rfl
@[simp] theorem setBusy_txFrameLen : (setBusy s).txFrameLen = s.txFrameLen := rfl
@[simp] theorem setBusy_polls : (setBusy s).polls = s.polls := rfl
@[simp] theorem setBusy_retries : (setBusy s).retries = s.retries := rfl
@[simp] theorem setBusy_lqRaw : (setBusy s).lqRaw = s.lqRaw := rfl
@[simp] theorem setBusy_lqDbm : (setBusy s).lqDbm = s.lqDbm := rfl
@[simp] theorem setBusy_lqClass : (setBusy s).lqClass = s.lqClass := rfl
@[simp] theorem setBusy_rdData : (setBusy s).rdData = s.rdData := rfl
@[simp] theorem setBusy_pfLen : (setBusy s).pfLen = s.pfLen := rfl
@[simp] theorem setBusy_pfAddr : (setBusy s).pfAddr = s.pfAddr := rfl
@[simp] theorem setBusy_pfPayload : (setBusy s).pfPayload = s.pfPayload := rfl
@[simp] theorem setBusy_faulted : (setBusy s).faulted = s.faulted := rfl
@[simp] theorem setBusy_written : (setBusy s).written = s.written := rfl
@[simp] theorem setBusy_trace : (setBusy s).trace = s.trace := rfl
@[simp] theorem setBusy_params : (setBusy s).params = s.params := rfl
@[simp] theorem setBusy_env : (setBusy s).env = s.env := rfl
@[simp] theorem setBusy_rxDraws : (setBusy s).rxDraws = s.rxDraws := rfl
@[simp] theorem setBusy_faultCause : (setBusy s).faultCause = s.faultCause := rfl
@[simp] theorem setBusy_reply : (setBusy s).reply = s.reply := rfl
@[simp] theorem setBusy_busData : (setBusy s).busData = s.busData := rfl
@[simp] theorem setBusy_hostIn : (setBusy s).hostIn = s.hostIn := rfl
@[simp] theorem setBusy_busIn : (setBusy s).busIn = s.busIn := rfl
end SetBusy

section ClearConfigured
variable (s : State)
@[simp] theorem clearConfigured_linkMode : (clearConfigured s).linkMode = s.linkMode := rfl
@[simp] theorem clearConfigured_localAddr : (clearConfigured s).localAddr = s.localAddr := rfl
@[simp] theorem clearConfigured_cs : (clearConfigured s).cs = s.cs := rfl
@[simp] theorem clearConfigured_initialised : (clearConfigured s).initialised = s.initialised := rfl
@[simp] theorem clearConfigured_configured : (clearConfigured s).configured = false := rfl
@[simp] theorem clearConfigured_busy : (clearConfigured s).busy = s.busy := rfl
@[simp] theorem clearConfigured_phase : (clearConfigured s).phase = s.phase := rfl
@[simp] theorem clearConfigured_outcome : (clearConfigured s).outcome = s.outcome := rfl
@[simp] theorem clearConfigured_detail : (clearConfigured s).detail = s.detail := rfl
@[simp] theorem clearConfigured_rxLen : (clearConfigured s).rxLen = s.rxLen := rfl
@[simp] theorem clearConfigured_rxAddr : (clearConfigured s).rxAddr = s.rxAddr := rfl
@[simp] theorem clearConfigured_rxBuf : (clearConfigured s).rxBuf = s.rxBuf := rfl
@[simp] theorem clearConfigured_rxRssiRaw : (clearConfigured s).rxRssiRaw = s.rxRssiRaw := rfl
@[simp] theorem clearConfigured_rxStatus2 : (clearConfigured s).rxStatus2 = s.rxStatus2 := rfl
@[simp] theorem clearConfigured_txFrame : (clearConfigured s).txFrame = s.txFrame := rfl
@[simp] theorem clearConfigured_txFrameLen : (clearConfigured s).txFrameLen = s.txFrameLen := rfl
@[simp] theorem clearConfigured_polls : (clearConfigured s).polls = s.polls := rfl
@[simp] theorem clearConfigured_retries : (clearConfigured s).retries = s.retries := rfl
@[simp] theorem clearConfigured_lqRaw : (clearConfigured s).lqRaw = s.lqRaw := rfl
@[simp] theorem clearConfigured_lqDbm : (clearConfigured s).lqDbm = s.lqDbm := rfl
@[simp] theorem clearConfigured_lqClass : (clearConfigured s).lqClass = s.lqClass := rfl
@[simp] theorem clearConfigured_rdData : (clearConfigured s).rdData = s.rdData := rfl
@[simp] theorem clearConfigured_pfLen : (clearConfigured s).pfLen = s.pfLen := rfl
@[simp] theorem clearConfigured_pfAddr : (clearConfigured s).pfAddr = s.pfAddr := rfl
@[simp] theorem clearConfigured_pfPayload : (clearConfigured s).pfPayload = s.pfPayload := rfl
@[simp] theorem clearConfigured_faulted : (clearConfigured s).faulted = s.faulted := rfl
@[simp] theorem clearConfigured_written : (clearConfigured s).written = s.written := rfl
@[simp] theorem clearConfigured_trace : (clearConfigured s).trace = s.trace := rfl
@[simp] theorem clearConfigured_params : (clearConfigured s).params = s.params := rfl
@[simp] theorem clearConfigured_env : (clearConfigured s).env = s.env := rfl
@[simp] theorem clearConfigured_rxDraws : (clearConfigured s).rxDraws = s.rxDraws := rfl
@[simp] theorem clearConfigured_faultCause : (clearConfigured s).faultCause = s.faultCause := rfl
@[simp] theorem clearConfigured_reply : (clearConfigured s).reply = s.reply := rfl
@[simp] theorem clearConfigured_busData : (clearConfigured s).busData = s.busData := rfl
@[simp] theorem clearConfigured_hostIn : (clearConfigured s).hostIn = s.hostIn := rfl
@[simp] theorem clearConfigured_busIn : (clearConfigured s).busIn = s.busIn := rfl
end ClearConfigured

section ClearInitialised
variable (s : State)
@[simp] theorem clearInitialised_linkMode : (clearInitialised s).linkMode = s.linkMode := rfl
@[simp] theorem clearInitialised_localAddr : (clearInitialised s).localAddr = s.localAddr := rfl
@[simp] theorem clearInitialised_cs : (clearInitialised s).cs = s.cs := rfl
@[simp] theorem clearInitialised_initialised : (clearInitialised s).initialised = false := rfl
@[simp] theorem clearInitialised_configured : (clearInitialised s).configured = false := rfl
@[simp] theorem clearInitialised_busy : (clearInitialised s).busy = s.busy := rfl
@[simp] theorem clearInitialised_phase : (clearInitialised s).phase = s.phase := rfl
@[simp] theorem clearInitialised_outcome : (clearInitialised s).outcome = s.outcome := rfl
@[simp] theorem clearInitialised_detail : (clearInitialised s).detail = s.detail := rfl
@[simp] theorem clearInitialised_rxLen : (clearInitialised s).rxLen = s.rxLen := rfl
@[simp] theorem clearInitialised_rxAddr : (clearInitialised s).rxAddr = s.rxAddr := rfl
@[simp] theorem clearInitialised_rxBuf : (clearInitialised s).rxBuf = s.rxBuf := rfl
@[simp] theorem clearInitialised_rxRssiRaw : (clearInitialised s).rxRssiRaw = s.rxRssiRaw := rfl
@[simp] theorem clearInitialised_rxStatus2 : (clearInitialised s).rxStatus2 = s.rxStatus2 := rfl
@[simp] theorem clearInitialised_txFrame : (clearInitialised s).txFrame = s.txFrame := rfl
@[simp] theorem clearInitialised_txFrameLen : (clearInitialised s).txFrameLen = s.txFrameLen := rfl
@[simp] theorem clearInitialised_polls : (clearInitialised s).polls = s.polls := rfl
@[simp] theorem clearInitialised_retries : (clearInitialised s).retries = s.retries := rfl
@[simp] theorem clearInitialised_lqRaw : (clearInitialised s).lqRaw = s.lqRaw := rfl
@[simp] theorem clearInitialised_lqDbm : (clearInitialised s).lqDbm = s.lqDbm := rfl
@[simp] theorem clearInitialised_lqClass : (clearInitialised s).lqClass = s.lqClass := rfl
@[simp] theorem clearInitialised_rdData : (clearInitialised s).rdData = s.rdData := rfl
@[simp] theorem clearInitialised_pfLen : (clearInitialised s).pfLen = s.pfLen := rfl
@[simp] theorem clearInitialised_pfAddr : (clearInitialised s).pfAddr = s.pfAddr := rfl
@[simp] theorem clearInitialised_pfPayload : (clearInitialised s).pfPayload = s.pfPayload := rfl
@[simp] theorem clearInitialised_faulted : (clearInitialised s).faulted = s.faulted := rfl
@[simp] theorem clearInitialised_written : (clearInitialised s).written = s.written := rfl
@[simp] theorem clearInitialised_trace : (clearInitialised s).trace = s.trace := rfl
@[simp] theorem clearInitialised_params : (clearInitialised s).params = s.params := rfl
@[simp] theorem clearInitialised_env : (clearInitialised s).env = s.env := rfl
@[simp] theorem clearInitialised_rxDraws : (clearInitialised s).rxDraws = s.rxDraws := rfl
@[simp] theorem clearInitialised_faultCause : (clearInitialised s).faultCause = s.faultCause := rfl
@[simp] theorem clearInitialised_reply : (clearInitialised s).reply = s.reply := rfl
@[simp] theorem clearInitialised_busData : (clearInitialised s).busData = s.busData := rfl
@[simp] theorem clearInitialised_hostIn : (clearInitialised s).hostIn = s.hostIn := rfl
@[simp] theorem clearInitialised_busIn : (clearInitialised s).busIn = s.busIn := rfl
end ClearInitialised

section MarkReset
variable (s : State)
@[simp] theorem markReset_linkMode : (markReset s).linkMode = .idle := rfl
@[simp] theorem markReset_localAddr : (markReset s).localAddr = s.localAddr := rfl
@[simp] theorem markReset_cs : (markReset s).cs = s.cs := rfl
@[simp] theorem markReset_initialised : (markReset s).initialised = true := rfl
@[simp] theorem markReset_configured : (markReset s).configured = false := rfl
@[simp] theorem markReset_busy : (markReset s).busy = s.busy := rfl
@[simp] theorem markReset_phase : (markReset s).phase = s.phase := rfl
@[simp] theorem markReset_outcome : (markReset s).outcome = s.outcome := rfl
@[simp] theorem markReset_detail : (markReset s).detail = s.detail := rfl
@[simp] theorem markReset_rxLen : (markReset s).rxLen = s.rxLen := rfl
@[simp] theorem markReset_rxAddr : (markReset s).rxAddr = s.rxAddr := rfl
@[simp] theorem markReset_rxBuf : (markReset s).rxBuf = s.rxBuf := rfl
@[simp] theorem markReset_rxRssiRaw : (markReset s).rxRssiRaw = s.rxRssiRaw := rfl
@[simp] theorem markReset_rxStatus2 : (markReset s).rxStatus2 = s.rxStatus2 := rfl
@[simp] theorem markReset_txFrame : (markReset s).txFrame = s.txFrame := rfl
@[simp] theorem markReset_txFrameLen : (markReset s).txFrameLen = s.txFrameLen := rfl
@[simp] theorem markReset_polls : (markReset s).polls = s.polls := rfl
@[simp] theorem markReset_retries : (markReset s).retries = s.retries := rfl
@[simp] theorem markReset_lqRaw : (markReset s).lqRaw = s.lqRaw := rfl
@[simp] theorem markReset_lqDbm : (markReset s).lqDbm = s.lqDbm := rfl
@[simp] theorem markReset_lqClass : (markReset s).lqClass = s.lqClass := rfl
@[simp] theorem markReset_rdData : (markReset s).rdData = s.rdData := rfl
@[simp] theorem markReset_pfLen : (markReset s).pfLen = s.pfLen := rfl
@[simp] theorem markReset_pfAddr : (markReset s).pfAddr = s.pfAddr := rfl
@[simp] theorem markReset_pfPayload : (markReset s).pfPayload = s.pfPayload := rfl
@[simp] theorem markReset_faulted : (markReset s).faulted = s.faulted := rfl
@[simp] theorem markReset_written : (markReset s).written = s.written := rfl
@[simp] theorem markReset_trace : (markReset s).trace = s.trace := rfl
@[simp] theorem markReset_params : (markReset s).params = s.params := rfl
@[simp] theorem markReset_env : (markReset s).env = s.env := rfl
@[simp] theorem markReset_rxDraws : (markReset s).rxDraws = s.rxDraws := rfl
@[simp] theorem markReset_faultCause : (markReset s).faultCause = s.faultCause := rfl
@[simp] theorem markReset_reply : (markReset s).reply = s.reply := rfl
@[simp] theorem markReset_busData : (markReset s).busData = s.busData := rfl
@[simp] theorem markReset_hostIn : (markReset s).hostIn = s.hostIn := rfl
@[simp] theorem markReset_busIn : (markReset s).busIn = s.busIn := rfl
end MarkReset

section StoreBusData
variable (d : List Byte) (s : State)
@[simp] theorem storeBusData_linkMode : (storeBusData d s).linkMode = s.linkMode := rfl
@[simp] theorem storeBusData_localAddr : (storeBusData d s).localAddr = s.localAddr := rfl
@[simp] theorem storeBusData_cs : (storeBusData d s).cs = s.cs := rfl
@[simp] theorem storeBusData_initialised : (storeBusData d s).initialised = s.initialised := rfl
@[simp] theorem storeBusData_configured : (storeBusData d s).configured = s.configured := rfl
@[simp] theorem storeBusData_busy : (storeBusData d s).busy = s.busy := rfl
@[simp] theorem storeBusData_phase : (storeBusData d s).phase = s.phase := rfl
@[simp] theorem storeBusData_outcome : (storeBusData d s).outcome = s.outcome := rfl
@[simp] theorem storeBusData_detail : (storeBusData d s).detail = s.detail := rfl
@[simp] theorem storeBusData_rxLen : (storeBusData d s).rxLen = s.rxLen := rfl
@[simp] theorem storeBusData_rxAddr : (storeBusData d s).rxAddr = s.rxAddr := rfl
@[simp] theorem storeBusData_rxBuf : (storeBusData d s).rxBuf = s.rxBuf := rfl
@[simp] theorem storeBusData_rxRssiRaw : (storeBusData d s).rxRssiRaw = s.rxRssiRaw := rfl
@[simp] theorem storeBusData_rxStatus2 : (storeBusData d s).rxStatus2 = s.rxStatus2 := rfl
@[simp] theorem storeBusData_txFrame : (storeBusData d s).txFrame = s.txFrame := rfl
@[simp] theorem storeBusData_txFrameLen : (storeBusData d s).txFrameLen = s.txFrameLen := rfl
@[simp] theorem storeBusData_polls : (storeBusData d s).polls = s.polls := rfl
@[simp] theorem storeBusData_retries : (storeBusData d s).retries = s.retries := rfl
@[simp] theorem storeBusData_lqRaw : (storeBusData d s).lqRaw = s.lqRaw := rfl
@[simp] theorem storeBusData_lqDbm : (storeBusData d s).lqDbm = s.lqDbm := rfl
@[simp] theorem storeBusData_lqClass : (storeBusData d s).lqClass = s.lqClass := rfl
@[simp] theorem storeBusData_rdData : (storeBusData d s).rdData = s.rdData := rfl
@[simp] theorem storeBusData_pfLen : (storeBusData d s).pfLen = s.pfLen := rfl
@[simp] theorem storeBusData_pfAddr : (storeBusData d s).pfAddr = s.pfAddr := rfl
@[simp] theorem storeBusData_pfPayload : (storeBusData d s).pfPayload = s.pfPayload := rfl
@[simp] theorem storeBusData_faulted : (storeBusData d s).faulted = s.faulted := rfl
@[simp] theorem storeBusData_written : (storeBusData d s).written = s.written := rfl
@[simp] theorem storeBusData_trace : (storeBusData d s).trace = s.trace := rfl
@[simp] theorem storeBusData_params : (storeBusData d s).params = s.params := rfl
@[simp] theorem storeBusData_env : (storeBusData d s).env = s.env := rfl
@[simp] theorem storeBusData_rxDraws : (storeBusData d s).rxDraws = s.rxDraws := rfl
@[simp] theorem storeBusData_faultCause : (storeBusData d s).faultCause = s.faultCause := rfl
@[simp] theorem storeBusData_reply : (storeBusData d s).reply = s.reply := rfl
@[simp] theorem storeBusData_busData : (storeBusData d s).busData = d := rfl
@[simp] theorem storeBusData_hostIn : (storeBusData d s).hostIn = s.hostIn := rfl
@[simp] theorem storeBusData_busIn : (storeBusData d s).busIn = s.busIn := rfl
end StoreBusData

section LeaveHost
variable (rest : List Byte) (s : State)
@[simp] theorem leaveHost_linkMode : (leaveHost rest s).linkMode = s.linkMode := rfl
@[simp] theorem leaveHost_localAddr : (leaveHost rest s).localAddr = s.localAddr := rfl
@[simp] theorem leaveHost_cs : (leaveHost rest s).cs = s.cs := rfl
@[simp] theorem leaveHost_initialised : (leaveHost rest s).initialised = s.initialised := rfl
@[simp] theorem leaveHost_configured : (leaveHost rest s).configured = s.configured := rfl
@[simp] theorem leaveHost_busy : (leaveHost rest s).busy = s.busy := rfl
@[simp] theorem leaveHost_phase : (leaveHost rest s).phase = s.phase := rfl
@[simp] theorem leaveHost_outcome : (leaveHost rest s).outcome = s.outcome := rfl
@[simp] theorem leaveHost_detail : (leaveHost rest s).detail = s.detail := rfl
@[simp] theorem leaveHost_rxLen : (leaveHost rest s).rxLen = s.rxLen := rfl
@[simp] theorem leaveHost_rxAddr : (leaveHost rest s).rxAddr = s.rxAddr := rfl
@[simp] theorem leaveHost_rxBuf : (leaveHost rest s).rxBuf = s.rxBuf := rfl
@[simp] theorem leaveHost_rxRssiRaw : (leaveHost rest s).rxRssiRaw = s.rxRssiRaw := rfl
@[simp] theorem leaveHost_rxStatus2 : (leaveHost rest s).rxStatus2 = s.rxStatus2 := rfl
@[simp] theorem leaveHost_txFrame : (leaveHost rest s).txFrame = s.txFrame := rfl
@[simp] theorem leaveHost_txFrameLen : (leaveHost rest s).txFrameLen = s.txFrameLen := rfl
@[simp] theorem leaveHost_polls : (leaveHost rest s).polls = s.polls := rfl
@[simp] theorem leaveHost_retries : (leaveHost rest s).retries = s.retries := rfl
@[simp] theorem leaveHost_lqRaw : (leaveHost rest s).lqRaw = s.lqRaw := rfl
@[simp] theorem leaveHost_lqDbm : (leaveHost rest s).lqDbm = s.lqDbm := rfl
@[simp] theorem leaveHost_lqClass : (leaveHost rest s).lqClass = s.lqClass := rfl
@[simp] theorem leaveHost_rdData : (leaveHost rest s).rdData = s.rdData := rfl
@[simp] theorem leaveHost_pfLen : (leaveHost rest s).pfLen = s.pfLen := rfl
@[simp] theorem leaveHost_pfAddr : (leaveHost rest s).pfAddr = s.pfAddr := rfl
@[simp] theorem leaveHost_pfPayload : (leaveHost rest s).pfPayload = s.pfPayload := rfl
@[simp] theorem leaveHost_faulted : (leaveHost rest s).faulted = s.faulted := rfl
@[simp] theorem leaveHost_written : (leaveHost rest s).written = s.written := rfl
@[simp] theorem leaveHost_trace : (leaveHost rest s).trace = s.trace := rfl
@[simp] theorem leaveHost_params : (leaveHost rest s).params = s.params := rfl
@[simp] theorem leaveHost_env : (leaveHost rest s).env = s.env := rfl
@[simp] theorem leaveHost_rxDraws : (leaveHost rest s).rxDraws = s.rxDraws := rfl
@[simp] theorem leaveHost_faultCause : (leaveHost rest s).faultCause = s.faultCause := rfl
@[simp] theorem leaveHost_reply : (leaveHost rest s).reply = s.reply := rfl
@[simp] theorem leaveHost_busData : (leaveHost rest s).busData = s.busData := rfl
@[simp] theorem leaveHost_hostIn : (leaveHost rest s).hostIn = rest := rfl
@[simp] theorem leaveHost_busIn : (leaveHost rest s).busIn = s.busIn := rfl
end LeaveHost

section LeaveFrames
variable (later : List (List Byte)) (s : State)
@[simp] theorem leaveFrames_linkMode : (leaveFrames later s).linkMode = s.linkMode := rfl
@[simp] theorem leaveFrames_localAddr : (leaveFrames later s).localAddr = s.localAddr := rfl
@[simp] theorem leaveFrames_cs : (leaveFrames later s).cs = s.cs := rfl
@[simp] theorem leaveFrames_initialised : (leaveFrames later s).initialised = s.initialised := rfl
@[simp] theorem leaveFrames_configured : (leaveFrames later s).configured = s.configured := rfl
@[simp] theorem leaveFrames_busy : (leaveFrames later s).busy = s.busy := rfl
@[simp] theorem leaveFrames_phase : (leaveFrames later s).phase = s.phase := rfl
@[simp] theorem leaveFrames_outcome : (leaveFrames later s).outcome = s.outcome := rfl
@[simp] theorem leaveFrames_detail : (leaveFrames later s).detail = s.detail := rfl
@[simp] theorem leaveFrames_rxLen : (leaveFrames later s).rxLen = s.rxLen := rfl
@[simp] theorem leaveFrames_rxAddr : (leaveFrames later s).rxAddr = s.rxAddr := rfl
@[simp] theorem leaveFrames_rxBuf : (leaveFrames later s).rxBuf = s.rxBuf := rfl
@[simp] theorem leaveFrames_rxRssiRaw : (leaveFrames later s).rxRssiRaw = s.rxRssiRaw := rfl
@[simp] theorem leaveFrames_rxStatus2 : (leaveFrames later s).rxStatus2 = s.rxStatus2 := rfl
@[simp] theorem leaveFrames_txFrame : (leaveFrames later s).txFrame = s.txFrame := rfl
@[simp] theorem leaveFrames_txFrameLen : (leaveFrames later s).txFrameLen = s.txFrameLen := rfl
@[simp] theorem leaveFrames_polls : (leaveFrames later s).polls = s.polls := rfl
@[simp] theorem leaveFrames_retries : (leaveFrames later s).retries = s.retries := rfl
@[simp] theorem leaveFrames_lqRaw : (leaveFrames later s).lqRaw = s.lqRaw := rfl
@[simp] theorem leaveFrames_lqDbm : (leaveFrames later s).lqDbm = s.lqDbm := rfl
@[simp] theorem leaveFrames_lqClass : (leaveFrames later s).lqClass = s.lqClass := rfl
@[simp] theorem leaveFrames_rdData : (leaveFrames later s).rdData = s.rdData := rfl
@[simp] theorem leaveFrames_pfLen : (leaveFrames later s).pfLen = s.pfLen := rfl
@[simp] theorem leaveFrames_pfAddr : (leaveFrames later s).pfAddr = s.pfAddr := rfl
@[simp] theorem leaveFrames_pfPayload : (leaveFrames later s).pfPayload = s.pfPayload := rfl
@[simp] theorem leaveFrames_faulted : (leaveFrames later s).faulted = s.faulted := rfl
@[simp] theorem leaveFrames_written : (leaveFrames later s).written = s.written := rfl
@[simp] theorem leaveFrames_trace : (leaveFrames later s).trace = s.trace := rfl
@[simp] theorem leaveFrames_params : (leaveFrames later s).params = s.params := rfl
@[simp] theorem leaveFrames_env : (leaveFrames later s).env = s.env := rfl
@[simp] theorem leaveFrames_rxDraws : (leaveFrames later s).rxDraws = s.rxDraws := rfl
@[simp] theorem leaveFrames_faultCause : (leaveFrames later s).faultCause = s.faultCause := rfl
@[simp] theorem leaveFrames_reply : (leaveFrames later s).reply = s.reply := rfl
@[simp] theorem leaveFrames_busData : (leaveFrames later s).busData = s.busData := rfl
@[simp] theorem leaveFrames_hostIn : (leaveFrames later s).hostIn = s.hostIn := rfl
@[simp] theorem leaveFrames_busIn : (leaveFrames later s).busIn = later := rfl
end LeaveFrames

/-! ### A transaction and a sample whose answers are known -/

/-- The state after a transaction that moved `miso` and left the environment `e`: what `xfer` does once the
answer is known. -/
def moved (mosi miso : List Byte) (e : Env) (s : State) : State :=
  { s with cs := true, env := e, trace := s.trace ++ transaction mosi miso }

section Moved
variable (mosi miso : List Byte) (e : Env) (s : State)
@[simp] theorem moved_linkMode : (moved mosi miso e s).linkMode = s.linkMode := rfl
@[simp] theorem moved_localAddr : (moved mosi miso e s).localAddr = s.localAddr := rfl
@[simp] theorem moved_cs : (moved mosi miso e s).cs = true := rfl
@[simp] theorem moved_initialised : (moved mosi miso e s).initialised = s.initialised := rfl
@[simp] theorem moved_configured : (moved mosi miso e s).configured = s.configured := rfl
@[simp] theorem moved_busy : (moved mosi miso e s).busy = s.busy := rfl
@[simp] theorem moved_phase : (moved mosi miso e s).phase = s.phase := rfl
@[simp] theorem moved_outcome : (moved mosi miso e s).outcome = s.outcome := rfl
@[simp] theorem moved_detail : (moved mosi miso e s).detail = s.detail := rfl
@[simp] theorem moved_rxLen : (moved mosi miso e s).rxLen = s.rxLen := rfl
@[simp] theorem moved_rxAddr : (moved mosi miso e s).rxAddr = s.rxAddr := rfl
@[simp] theorem moved_rxBuf : (moved mosi miso e s).rxBuf = s.rxBuf := rfl
@[simp] theorem moved_rxRssiRaw : (moved mosi miso e s).rxRssiRaw = s.rxRssiRaw := rfl
@[simp] theorem moved_rxStatus2 : (moved mosi miso e s).rxStatus2 = s.rxStatus2 := rfl
@[simp] theorem moved_txFrame : (moved mosi miso e s).txFrame = s.txFrame := rfl
@[simp] theorem moved_txFrameLen : (moved mosi miso e s).txFrameLen = s.txFrameLen := rfl
@[simp] theorem moved_polls : (moved mosi miso e s).polls = s.polls := rfl
@[simp] theorem moved_retries : (moved mosi miso e s).retries = s.retries := rfl
@[simp] theorem moved_lqRaw : (moved mosi miso e s).lqRaw = s.lqRaw := rfl
@[simp] theorem moved_lqDbm : (moved mosi miso e s).lqDbm = s.lqDbm := rfl
@[simp] theorem moved_lqClass : (moved mosi miso e s).lqClass = s.lqClass := rfl
@[simp] theorem moved_rdData : (moved mosi miso e s).rdData = s.rdData := rfl
@[simp] theorem moved_pfLen : (moved mosi miso e s).pfLen = s.pfLen := rfl
@[simp] theorem moved_pfAddr : (moved mosi miso e s).pfAddr = s.pfAddr := rfl
@[simp] theorem moved_pfPayload : (moved mosi miso e s).pfPayload = s.pfPayload := rfl
@[simp] theorem moved_faulted : (moved mosi miso e s).faulted = s.faulted := rfl
@[simp] theorem moved_written : (moved mosi miso e s).written = s.written := rfl
@[simp] theorem moved_trace : (moved mosi miso e s).trace = s.trace ++ transaction mosi miso := rfl
@[simp] theorem moved_params : (moved mosi miso e s).params = s.params := rfl
@[simp] theorem moved_env : (moved mosi miso e s).env = e := rfl
@[simp] theorem moved_rxDraws : (moved mosi miso e s).rxDraws = s.rxDraws := rfl
@[simp] theorem moved_faultCause : (moved mosi miso e s).faultCause = s.faultCause := rfl
@[simp] theorem moved_reply : (moved mosi miso e s).reply = s.reply := rfl
@[simp] theorem moved_busData : (moved mosi miso e s).busData = s.busData := rfl
@[simp] theorem moved_hostIn : (moved mosi miso e s).hostIn = s.hostIn := rfl
@[simp] theorem moved_busIn : (moved mosi miso e s).busIn = s.busIn := rfl
end Moved

/-- The state after a sample of level `l` that left the environment `e`. -/
def sampled (l : Bool) (e : Env) (s : State) : State := { s with env := e, trace := s.trace ++ [.sample l] }

section Sampled
variable (l : Bool) (e : Env) (s : State)
@[simp] theorem sampled_linkMode : (sampled l e s).linkMode = s.linkMode := rfl
@[simp] theorem sampled_localAddr : (sampled l e s).localAddr = s.localAddr := rfl
@[simp] theorem sampled_cs : (sampled l e s).cs = s.cs := rfl
@[simp] theorem sampled_initialised : (sampled l e s).initialised = s.initialised := rfl
@[simp] theorem sampled_configured : (sampled l e s).configured = s.configured := rfl
@[simp] theorem sampled_busy : (sampled l e s).busy = s.busy := rfl
@[simp] theorem sampled_phase : (sampled l e s).phase = s.phase := rfl
@[simp] theorem sampled_outcome : (sampled l e s).outcome = s.outcome := rfl
@[simp] theorem sampled_detail : (sampled l e s).detail = s.detail := rfl
@[simp] theorem sampled_rxLen : (sampled l e s).rxLen = s.rxLen := rfl
@[simp] theorem sampled_rxAddr : (sampled l e s).rxAddr = s.rxAddr := rfl
@[simp] theorem sampled_rxBuf : (sampled l e s).rxBuf = s.rxBuf := rfl
@[simp] theorem sampled_rxRssiRaw : (sampled l e s).rxRssiRaw = s.rxRssiRaw := rfl
@[simp] theorem sampled_rxStatus2 : (sampled l e s).rxStatus2 = s.rxStatus2 := rfl
@[simp] theorem sampled_txFrame : (sampled l e s).txFrame = s.txFrame := rfl
@[simp] theorem sampled_txFrameLen : (sampled l e s).txFrameLen = s.txFrameLen := rfl
@[simp] theorem sampled_polls : (sampled l e s).polls = s.polls := rfl
@[simp] theorem sampled_retries : (sampled l e s).retries = s.retries := rfl
@[simp] theorem sampled_lqRaw : (sampled l e s).lqRaw = s.lqRaw := rfl
@[simp] theorem sampled_lqDbm : (sampled l e s).lqDbm = s.lqDbm := rfl
@[simp] theorem sampled_lqClass : (sampled l e s).lqClass = s.lqClass := rfl
@[simp] theorem sampled_rdData : (sampled l e s).rdData = s.rdData := rfl
@[simp] theorem sampled_pfLen : (sampled l e s).pfLen = s.pfLen := rfl
@[simp] theorem sampled_pfAddr : (sampled l e s).pfAddr = s.pfAddr := rfl
@[simp] theorem sampled_pfPayload : (sampled l e s).pfPayload = s.pfPayload := rfl
@[simp] theorem sampled_faulted : (sampled l e s).faulted = s.faulted := rfl
@[simp] theorem sampled_written : (sampled l e s).written = s.written := rfl
@[simp] theorem sampled_trace : (sampled l e s).trace = s.trace ++ [.sample l] := rfl
@[simp] theorem sampled_params : (sampled l e s).params = s.params := rfl
@[simp] theorem sampled_env : (sampled l e s).env = e := rfl
@[simp] theorem sampled_rxDraws : (sampled l e s).rxDraws = s.rxDraws := rfl
@[simp] theorem sampled_faultCause : (sampled l e s).faultCause = s.faultCause := rfl
@[simp] theorem sampled_reply : (sampled l e s).reply = s.reply := rfl
@[simp] theorem sampled_busData : (sampled l e s).busData = s.busData := rfl
@[simp] theorem sampled_hostIn : (sampled l e s).hostIn = s.hostIn := rfl
@[simp] theorem sampled_busIn : (sampled l e s).busIn = s.busIn := rfl
end Sampled

/-- The state after a wait that took the settled samples `ls` and left `rest` of them. -/
def polled (p : Phase) (ls rest : List Bool) (s : State) : State :=
  { s with
    phase := p, polls := ls.length, env := { s.env with lineTape := rest }, trace := s.trace ++ samples ls }

section Polled
variable (p : Phase) (ls rest : List Bool) (s : State)
@[simp] theorem polled_linkMode : (polled p ls rest s).linkMode = s.linkMode := rfl
@[simp] theorem polled_localAddr : (polled p ls rest s).localAddr = s.localAddr := rfl
@[simp] theorem polled_cs : (polled p ls rest s).cs = s.cs := rfl
@[simp] theorem polled_initialised : (polled p ls rest s).initialised = s.initialised := rfl
@[simp] theorem polled_configured : (polled p ls rest s).configured = s.configured := rfl
@[simp] theorem polled_busy : (polled p ls rest s).busy = s.busy := rfl
@[simp] theorem polled_phase : (polled p ls rest s).phase = p := rfl
@[simp] theorem polled_outcome : (polled p ls rest s).outcome = s.outcome := rfl
@[simp] theorem polled_detail : (polled p ls rest s).detail = s.detail := rfl
@[simp] theorem polled_rxLen : (polled p ls rest s).rxLen = s.rxLen := rfl
@[simp] theorem polled_rxAddr : (polled p ls rest s).rxAddr = s.rxAddr := rfl
@[simp] theorem polled_rxBuf : (polled p ls rest s).rxBuf = s.rxBuf := rfl
@[simp] theorem polled_rxRssiRaw : (polled p ls rest s).rxRssiRaw = s.rxRssiRaw := rfl
@[simp] theorem polled_rxStatus2 : (polled p ls rest s).rxStatus2 = s.rxStatus2 := rfl
@[simp] theorem polled_txFrame : (polled p ls rest s).txFrame = s.txFrame := rfl
@[simp] theorem polled_txFrameLen : (polled p ls rest s).txFrameLen = s.txFrameLen := rfl
@[simp] theorem polled_polls : (polled p ls rest s).polls = ls.length := rfl
@[simp] theorem polled_retries : (polled p ls rest s).retries = s.retries := rfl
@[simp] theorem polled_lqRaw : (polled p ls rest s).lqRaw = s.lqRaw := rfl
@[simp] theorem polled_lqDbm : (polled p ls rest s).lqDbm = s.lqDbm := rfl
@[simp] theorem polled_lqClass : (polled p ls rest s).lqClass = s.lqClass := rfl
@[simp] theorem polled_rdData : (polled p ls rest s).rdData = s.rdData := rfl
@[simp] theorem polled_pfLen : (polled p ls rest s).pfLen = s.pfLen := rfl
@[simp] theorem polled_pfAddr : (polled p ls rest s).pfAddr = s.pfAddr := rfl
@[simp] theorem polled_pfPayload : (polled p ls rest s).pfPayload = s.pfPayload := rfl
@[simp] theorem polled_faulted : (polled p ls rest s).faulted = s.faulted := rfl
@[simp] theorem polled_written : (polled p ls rest s).written = s.written := rfl
@[simp] theorem polled_trace : (polled p ls rest s).trace = s.trace ++ samples ls := rfl
@[simp] theorem polled_params : (polled p ls rest s).params = s.params := rfl
@[simp] theorem polled_env : (polled p ls rest s).env = { s.env with lineTape := rest } := rfl
@[simp] theorem polled_rxDraws : (polled p ls rest s).rxDraws = s.rxDraws := rfl
@[simp] theorem polled_faultCause : (polled p ls rest s).faultCause = s.faultCause := rfl
@[simp] theorem polled_reply : (polled p ls rest s).reply = s.reply := rfl
@[simp] theorem polled_busData : (polled p ls rest s).busData = s.busData := rfl
@[simp] theorem polled_hostIn : (polled p ls rest s).hostIn = s.hostIn := rfl
@[simp] theorem polled_busIn : (polled p ls rest s).busIn = s.busIn := rfl
end Polled

theorem xfer_eq {mosi miso : List Byte} {e : Env} {s : State} (h : s.busAnswer mosi = (miso, e)) :
    xfer mosi s = (miso, moved mosi miso e s) := by
  simp only [xfer, h, transactionEvents_eq]
  rfl

theorem sampleLine_eq {l : Bool} {e : Env} {s : State} (h : s.lineAnswer = (l, e)) :
    sampleLine s = (l, sampled l e s) := by
  simp only [sampleLine, h]
  rfl

end Sys2Proof.Machine
end

