-- ==== Sys2Proof/Laws/Ops.lean ====
section
/-! SUPPORT. What each shared operation can do, said once: the cases of an admission, of a transaction, of a
poll and of the count loop, and which properties of the state a whole operation body keeps. -/

namespace Sys2Proof.Machine

/-! ### Admission -/

/-- Every way `admitOp` can end (R404). -/
theorem admitOp_cases {P : State → Prop} {refused : Bool} {arg : Option ArgOutcome} {g : Gate} {s : State}
    {body : State → State}
    (faulted : s.faulted = true → P s)
    (busy : s.faulted = false → s.busy = true → P (modelFault .busy s))
    (notAdmitted : HostReady s → refused = true → P (refuse s))
    (argument : ∀ a, HostReady s → refused = false → arg = some a →
      P (raise a.outcome a.phase a.sub (clearCounters s)))
    (gate : ∀ f, HostReady s → refused = false → arg = none → gateFault g s = some f → P (modelFault f s))
    (run : HostReady s → refused = false → arg = none → gateFault g s = none → P (body (beginOp s))) :
    P (admitOp refused arg g s body) := by
  unfold admitOp
  split
  · exact faulted ‹_›
  · rename_i hf
    rw [Bool.not_eq_true] at hf
    split
    · exact busy hf ‹_›
    · rename_i hb
      rw [Bool.not_eq_true] at hb
      split
      · exact notAdmitted ⟨hf, hb⟩ ‹_›
      · rename_i hr
        rw [Bool.not_eq_true] at hr
        split
        · exact argument _ ⟨hf, hb⟩ hr rfl
        · split
          · exact gate _ ⟨hf, hb⟩ hr rfl ‹_›
          · exact run ⟨hf, hb⟩ hr rfl ‹_›

/-- An admitted operation executes. -/
theorem admitOp_run {g : Gate} {s : State} {body : State → State} (h : HostReady s) (hg : gateFault g s = none) :
    admitOp false none g s body = body (beginOp s) := by
  simp [admitOp, h.1, h.2, hg]

/-- An operation that is not admitted. -/
theorem admitOp_refused {arg : Option ArgOutcome} {g : Gate} {s : State} {body : State → State} (h : HostReady s) :
    admitOp true arg g s body = refuse s := by
  simp [admitOp, h.1, h.2]

/-- An argument outcome. -/
theorem admitOp_argument {a : ArgOutcome} {g : Gate} {s : State} {body : State → State} (h : HostReady s) :
    admitOp false (some a) g s body = raise a.outcome a.phase a.sub (clearCounters s) := by
  simp [admitOp, h.1, h.2]

/-- A state fault. -/
theorem admitOp_gate {g : Gate} {s : State} {f : Fault} {body : State → State} (h : HostReady s)
    (hg : gateFault g s = some f) : admitOp false none g s body = modelFault f s := by
  simp [admitOp, h.1, h.2, hg]

@[simp] theorem gateFault_ungated (s : State) : gateFault .ungated s = none := rfl

theorem gateFault_bus {s : State} (h : s.initialised = true) : gateFault .bus s = none := by
  simp [gateFault, h]

theorem gateFault_link {s : State} (h : s.initialised = true) (hc : s.configured = true) :
    gateFault .link s = none := by
  simp [gateFault, h, hc]

/-- The state faults a gate can raise. -/
theorem gateFault_cases {g : Gate} {s : State} {f : Fault} (h : gateFault g s = some f) :
    f = .notInitialised ∨ f = .notConfigured ∨ f = .flushNotIdle := by
  cases g <;> simp only [gateFault] at h <;> (repeat' split at h) <;> simp_all

/-- Every way `admitBus` can end. -/
theorem admitBus_cases {P : State → Prop} {ok needsInit : Bool} {s : State} {body : State → State}
    (faulted : s.faulted = true → P s)
    (notAdmitted : s.faulted = false → ok = false → P (refuse s))
    (settle : s.faulted = false → ok = true → s.phase = .rstSettle → P (modelFault .settle s))
    (uninitialised : s.faulted = false → ok = true → s.phase ≠ .rstSettle → needsInit = true →
      s.initialised = false → P (modelFault .notInitialised s))
    (run : s.faulted = false → ok = true → s.phase ≠ .rstSettle → (needsInit = true → s.initialised = true) →
      P (body s)) :
    P (admitBus ok needsInit s body) := by
  unfold admitBus
  split
  · exact faulted ‹_›
  · rename_i hf
    rw [Bool.not_eq_true] at hf
    split
    · exact notAdmitted hf (by simp_all)
    · rename_i ho
      have ho : ok = true := by simpa using ho
      split
      · exact settle hf ho ‹_›
      · split
        · rename_i hp hi
          simp only [Bool.and_eq_true, Bool.not_eq_true'] at hi
          exact uninitialised hf ho hp hi.1 hi.2
        · rename_i hp hi
          exact run hf ho hp (by simpa using hi)

/-- A bus command that is ready is performed. -/
theorem admitBus_run {needsInit : Bool} {s : State} {body : State → State} (h : CommandReady s) :
    admitBus true needsInit s body = body s := by
  simp [admitBus, h.1, h.2.1, h.2.2]

/-! ### The transaction and the strobe -/

/-- A transaction is short or complete (R160). -/
theorem xferOr_cases {P : State → Prop} {mosi : List Byte} {s : State} {onShort : State → State}
    {k : List Byte → State → State}
    (short : (xfer mosi s).1.length < mosi.length → P (onShort (xfer mosi s).2))
    (full : (xfer mosi s).1.length = mosi.length → P (k (xfer mosi s).1 (xfer mosi s).2)) :
    P (xferOr mosi s onShort k) := by
  simp only [xferOr]
  split
  · exact short ‹_›
  · exact full (Nat.le_antisymm (Env.busAnswer_length_le _ _ _) (Nat.le_of_not_lt ‹_›))

/-- A complete transaction goes on with its bytes. -/
theorem xferOr_full {mosi : List Byte} {s : State} {onShort : State → State} {k : List Byte → State → State}
    (h : (xfer mosi s).1.length = mosi.length) :
    xferOr mosi s onShort k = k (xfer mosi s).1 (xfer mosi s).2 := by
  simp only [xferOr, h, Nat.lt_irrefl, ite_false]

/-- A short transaction ends the operation. -/
theorem xferOr_short {mosi : List Byte} {s : State} {onShort : State → State} {k : List Byte → State → State}
    (h : (xfer mosi s).1.length < mosi.length) : xferOr mosi s onShort k = onShort (xfer mosi s).2 := by
  simp only [xferOr, h, ite_true]

/-- A transaction whose answer is known and complete. -/
theorem xferOr_complete {mosi miso : List Byte} {e : Env} {s : State} {onShort : State → State}
    {k : List Byte → State → State} (h : s.busAnswer mosi = (miso, e)) (hl : miso.length = mosi.length) :
    xferOr mosi s onShort k = k miso (moved mosi miso e s) := by
  simp only [xferOr, xfer_eq h, hl, Nat.lt_irrefl, ite_false]

/-- A transaction whose answer is known and short. -/
theorem xferOr_cut {mosi miso : List Byte} {e : Env} {s : State} {onShort : State → State}
    {k : List Byte → State → State} (h : s.busAnswer mosi = (miso, e)) (hl : miso.length < mosi.length) :
    xferOr mosi s onShort k = onShort (moved mosi miso e s) := by
  simp only [xferOr, xfer_eq h, hl, ite_true]

/-- A transaction whose answer is settled. -/
theorem xferOr_settled {mosi a : List Byte} {rest : List (List Byte)} {s : State} {onShort : State → State}
    {k : List Byte → State → State} (hs : s.env.source = .oracle) (ht : s.env.busTape = a :: rest)
    (hl : a.length = mosi.length) :
    xferOr mosi s onShort k = k a (moved mosi a { s.env with busTape := rest } s) := by
  refine xferOr_complete ?_ hl
  rw [State.busAnswer_tape hs ht, List.take_of_length_le (Nat.le_of_eq hl)]

/-- A strobe whose answer is settled. -/
theorem strobeAt_settled {p : Phase} {c : Strobe} {m : Byte} {rest : List (List Byte)} {s : State}
    {k : State → State} (hs : s.env.source = .oracle) (ht : s.env.busTape = [m] :: rest) :
    strobeAt p c s k =
      k (recordStrobe c (moved [c.code s.params] [m] { s.env with busTape := rest } (atPhase p s))) := by
  unfold strobeAt strobeThen xferThen frameStrobe
  exact xferOr_settled (s := atPhase p s) hs ht rfl

/-- A status read whose answer is settled. -/
theorem readStatusAt_settled {p : Phase} {a : Addr} {m v : Byte} {rest : List (List Byte)} {s : State}
    {k : Byte → State → State} (hs : s.env.source = .oracle) (ht : s.env.busTape = [m, v] :: rest) :
    readStatusAt p a s k =
      k v (moved (frameReadStatus s.params a) [m, v] { s.env with busTape := rest } (atPhase p s)) := by
  unfold readStatusAt xferAt xferThen
  exact xferOr_settled (s := atPhase p s) hs ht rfl

/-- A transaction at a phase whose answer is settled. -/
theorem xferAt_settled {p : Phase} {mosi a : List Byte} {rest : List (List Byte)} {s : State}
    {k : List Byte → State → State} (hs : s.env.source = .oracle) (ht : s.env.busTape = a :: rest)
    (hl : a.length = mosi.length) :
    xferAt p mosi s k = k a (moved mosi a { s.env with busTape := rest } (atPhase p s)) := by
  unfold xferAt xferThen
  rw [xferOr_settled (s := atPhase p s) hs ht hl]
  rfl

/-! ### The completion line -/

/-- The loop of a wait that is met after n settled samples of the other level (R271). -/
theorem pollLoop_met {level : Bool} {n budget : Nat} {rest : List Bool} {s : State} (hn : n < budget)
    (hs : s.env.source = .oracle) (ht : s.env.lineTape = List.replicate n (!level) ++ level :: rest) :
    pollLoop level budget s = (true, { s with
      polls := s.polls + (n + 1), env := { s.env with lineTape := rest }
      trace := s.trace ++ samples (List.replicate n (!level) ++ [level]) }) := by
  induction n generalizing budget s with
  | zero =>
    obtain ⟨b, rfl⟩ := Nat.exists_eq_succ_of_ne_zero (Nat.ne_of_gt hn)
    have h : s.env.lineTape = level :: rest := ht
    simp [pollLoop, sampleLine_eq (State.lineAnswer_tape hs h), setPolls, sampled, samples]
  | succ n ih =>
    obtain ⟨b, rfl⟩ := Nat.exists_eq_succ_of_ne_zero (Nat.ne_of_gt (Nat.lt_of_le_of_lt (Nat.zero_le _) hn))
    have h : s.env.lineTape = (!level) :: (List.replicate n (!level) ++ level :: rest) := ht
    simp only [pollLoop, sampleLine_eq (State.lineAnswer_tape hs h)]
    rw [if_neg (by cases level <;> decide), ih (Nat.lt_of_succ_lt_succ hn) (by exact hs) rfl]
    simp [List.replicate_succ, setPolls, sampled, samples, Nat.add_comm, Nat.add_left_comm]

/-- The loop of a wait whose whole budget of settled samples shows the other level (R271). -/
theorem pollLoop_timeout {level : Bool} {n : Nat} {rest : List Bool} {s : State}
    (hs : s.env.source = .oracle) (ht : s.env.lineTape = List.replicate n (!level) ++ rest) :
    pollLoop level n s = (false, { s with
      polls := s.polls + n, env := { s.env with lineTape := rest }
      trace := s.trace ++ samples (List.replicate n (!level)) }) := by
  induction n generalizing s with
  | zero =>
    have h : s.env.lineTape = rest := ht
    simp [pollLoop, samples, ← h]
  | succ n ih =>
    have h : s.env.lineTape = (!level) :: (List.replicate n (!level) ++ rest) := ht
    simp only [pollLoop, sampleLine_eq (State.lineAnswer_tape hs h)]
    rw [if_neg (by cases level <;> decide), ih (by exact hs) rfl]
    simp [List.replicate_succ, setPolls, sampled, samples, Nat.add_comm, Nat.add_left_comm]

/-- A wait that is met. -/
theorem pollAt_met {p : Phase} {level : Bool} {n budget : Nat} {rest : List Bool} {s : State}
    {onTimeout k : State → State} (hn : n < budget) (hs : s.env.source = .oracle)
    (ht : s.env.lineTape = List.replicate n (!level) ++ level :: rest) :
    pollAt p level budget s onTimeout k = k (polled p (List.replicate n (!level) ++ [level]) rest s) := by
  unfold pollAt pollUntil
  rw [pollLoop_met (s := setPolls 0 (atPhase p s)) hn hs ht]
  simp [polled, setPolls, atPhase]

/-- A wait that times out. -/
theorem pollAt_timeout {p : Phase} {level : Bool} {budget : Nat} {rest : List Bool} {s : State}
    {onTimeout k : State → State} (hs : s.env.source = .oracle)
    (ht : s.env.lineTape = List.replicate budget (!level) ++ rest) :
    pollAt p level budget s onTimeout k = onTimeout (polled p (List.replicate budget (!level)) rest s) := by
  unfold pollAt pollUntil
  rw [pollLoop_timeout (s := setPolls 0 (atPhase p s)) hs ht]
  simp [polled, setPolls, atPhase]

/-! ### What an operation body keeps, and how it ends

`Transacts I P`: I holds between an operation's transactions, P at its ends. `Strobes I P`: with strobes too.
`Samples I P`: with polls too. Where I is kept to the end, P is I. -/

structure Transacts (I P : State → Prop) : Prop where
  phase : ∀ p s, I s → I (atPhase p s)
  answer : ∀ mosi s, I s → (xfer mosi s).1.length = mosi.length → I (xfer mosi s).2
  short : ∀ mosi s, I s → (xfer mosi s).1.length < mosi.length → P (busFault (xfer mosi s).2)
  ending : ∀ o p sub s, I s → o ≠ .busFault → P (raise o p sub s)

structure Strobes (I P : State → Prop) : Prop extends Transacts I P where
  mode : ∀ c s, I s → I (recordStrobe c s)

structure Samples (I P : State → Prop) : Prop extends Strobes I P where
  line : ∀ s, I s → I (sampleLine s).2
  polls : ∀ n s, I s → I (setPolls n s)
  retries : ∀ n s, I s → I (setRetries n s)

variable {I P : State → Prop}

/-- A property that every transaction and every ending keeps. -/
theorem Transacts.keeping (phase : ∀ p s, I s → I (atPhase p s)) (answer : ∀ mosi s, I s → I (xfer mosi s).2)
    (ending : ∀ o p sub s, I s → I (raise o p sub s)) : Transacts I I :=
  ⟨phase, fun mosi s hs _ => answer mosi s hs, fun mosi s hs _ => ending _ _ _ _ (answer mosi s hs),
    fun o p sub s hs _ => ending o p sub s hs⟩

theorem Transacts.xferThen (h : Transacts I P) {mosi : List Byte} {s : State} {k : List Byte → State → State}
    (hs : I s) (hk : ∀ miso s, miso.length = mosi.length → I s → P (k miso s)) :
    P (xferThen mosi s k) :=
  xferOr_cases (fun hl => h.short _ _ hs hl) fun hl => hk _ _ hl (h.answer _ _ hs hl)

theorem Transacts.xferAt (h : Transacts I P) {p : Phase} {mosi : List Byte} {s : State}
    {k : List Byte → State → State} (hs : I s)
    (hk : ∀ miso s, miso.length = mosi.length → I s → P (k miso s)) : P (xferAt p mosi s k) :=
  h.xferThen (h.phase _ _ hs) hk

theorem Strobes.strobeThen (h : Strobes I P) {c : Strobe} {s : State} {k : State → State}
    (hs : I s) (hk : ∀ s, I s → P (k s)) : P (strobeThen c s k) :=
  h.xferThen hs fun _ _ _ hs => hk _ (h.mode _ _ hs)

theorem Strobes.strobeAt (h : Strobes I P) {p : Phase} {c : Strobe} {s : State} {k : State → State}
    (hs : I s) (hk : ∀ s, I s → P (k s)) : P (strobeAt p c s k) :=
  h.strobeThen (h.phase _ _ hs) hk

theorem Samples.pollLoop (h : Samples I P) (level : Bool) (n : Nat) {s : State} (hs : I s) :
    I (pollLoop level n s).2 := by
  induction n generalizing s with
  | zero => exact hs
  | succ n ih =>
    simp only [Machine.pollLoop]
    have := h.polls ((sampleLine s).2.polls + 1) _ (h.line s hs)
    split
    · exact this
    · exact ih this

theorem Samples.pollAt (h : Samples I P) {p : Phase} {level : Bool} {n : Nat} {s : State} {onTimeout k : State → State}
    (hs : I s) (ht : ∀ s, I s → P (onTimeout s)) (hk : ∀ s, I s → P (k s)) : P (pollAt p level n s onTimeout k) := by
  have : I (pollUntil level n (atPhase p s)).2 := h.pollLoop level n (h.polls 0 _ (h.phase p s hs))
  unfold Machine.pollAt
  revert this
  rcases pollUntil level n (atPhase p s) with ⟨_ | _, t⟩ <;> intro this
  · exact ht _ this
  · exact hk _ this

theorem Strobes.enterRx (h : Strobes I P) {p₁ p₂ p₃ : Phase} {s : State} {k : State → State}
    (hs : I s) (hk : ∀ s, I s → P (k s)) : P (enterRx p₁ p₂ p₃ s k) :=
  h.strobeAt hs fun _ hs => h.strobeAt hs fun _ hs => h.strobeAt hs hk

theorem Transacts.readStatusAt (h : Transacts I P) {p : Phase} {a : Addr} {s : State} {k : Byte → State → State}
    (hs : I s) (hk : ∀ v s, I s → P (k v s)) : P (readStatusAt p a s k) :=
  h.xferAt hs fun _ _ _ hs => hk _ _ hs

theorem Samples.countLoop (h : Samples I P) (n : Nat) {c₁ c₂ : Byte} {s : State} {k : Byte → State → State}
    (hs : I s) (hk : ∀ v s, I s → P (k v s)) : P (countLoop n c₁ c₂ s k) := by
  induction n generalizing c₁ c₂ s with
  | zero =>
    simp only [Machine.countLoop]
    split
    · exact hk _ _ hs
    · exact h.ending _ _ _ _ hs (by decide)
  | succ n ih =>
    simp only [Machine.countLoop]
    split
    · exact hk _ _ hs
    · exact h.readStatusAt hs fun _ s hs => ih (h.retries _ s hs)

theorem Samples.stableCount (h : Samples I P) {s : State} {k : Byte → State → State}
    (hs : I s) (hk : ∀ v s, I s → P (k v s)) : P (stableCount s k) :=
  h.readStatusAt hs fun _ _ hs => h.readStatusAt hs fun _ s hs => h.countLoop _ (h.retries 0 s hs) hk

/-! ### Whole bodies -/

theorem Transacts.writeBody (h : Transacts I P) {frame : List Byte} {s : State} (hs : I s) : P (writeBody frame s) :=
  h.xferAt hs fun _ _ _ hs => h.ending _ _ _ _ hs (by decide)

theorem Transacts.readBody (h : Transacts I P) (store : ∀ d s, I s → I (storeRead d s)) {frame : List Byte} {s : State}
    (hs : I s) : P (readBody frame s) :=
  h.xferAt hs fun _ _ _ hs => h.ending _ _ _ _ (store _ _ hs) (by decide)

theorem Strobes.strobeBody (h : Strobes I P) {c : Strobe} {s : State} (hs : I s) : P (strobeBody c s) :=
  h.strobeAt hs fun _ hs => h.ending _ _ _ _ hs (by decide)

theorem Transacts.configWrites (h : Transacts I P) (i : Nat) (image : List (Addr × Byte)) {s : State}
    {k : State → State} (hs : I s) (hk : ∀ s, I s → P (k s)) : P (configWrites i image s k) := by
  induction image generalizing i s with
  | nil => exact hk _ hs
  | cons p image ih => exact h.xferAt hs fun _ _ _ hs => ih (i + 1) hs

theorem Samples.txRecover (h : Samples I P) {p : Phase} {s : State} (hs : I s) : P (txRecover p s) :=
  h.strobeAt hs fun _ hs => h.strobeAt hs fun _ hs => h.ending _ _ _ _ hs (by decide)

theorem Samples.sendFinish (h : Samples I P) {s : State} (hs : I s) : P (sendFinish s) := by
  unfold Machine.sendFinish
  split
  · exact h.strobeAt hs fun _ hs => h.strobeAt hs fun _ hs => h.ending _ _ _ _ hs (by decide)
  · exact h.ending _ _ _ _ hs (by decide)

theorem Samples.sendBody (h : Samples I P) {dest : Byte} {p : List Byte} {s : State}
    (hs : I (storeFrame (frameOf dest p) s)) : P (sendBody dest p s) :=
  h.strobeAt hs fun _ hs =>
  h.strobeAt hs fun _ hs =>
  h.xferAt hs fun _ _ _ hs =>
  h.strobeAt hs fun _ hs =>
  h.pollAt hs (fun _ hs => h.txRecover hs) fun _ hs =>
  h.pollAt hs (fun _ hs => h.txRecover hs) fun _ hs =>
  h.strobeAt hs fun _ hs =>
  h.strobeAt hs fun _ hs => h.sendFinish hs

theorem Strobes.receiveImage (h : Strobes I P) (zero : ∀ s, I s → I (zeroRxBuf s))
    {size : Nat} (store : ∀ r s, r.length ≤ size → I s → I (deliver r s))
    (unwritten : ∀ s, I s → s.written.localAddr = false → P (modelFault .unwritten s))
    {r : List Byte} {n : Nat} {s : State} (hr : r.length ≤ size) (hs : I s) : P (receiveImage r n s) := by
  have discard : ∀ sub s, I s → P (crcDiscard sub s) := fun sub s hs =>
    h.enterRx (zero _ hs) fun _ hs => h.ending _ _ _ _ hs (by decide)
  simp only [Machine.receiveImage]
  split
  · exact discard _ _ (h.phase _ _ hs)
  split
  · exact discard _ _ (h.phase _ _ hs)
  split
  · rename_i hn
    refine unwritten _ (h.phase _ _ (h.phase _ _ hs)) ?_
    rcases hw : s.written.localAddr
    · exact hw
    · simp [State.readLocalAddr, hw] at hn
  split
  · exact h.enterRx (h.phase _ _ (h.phase _ _ (h.phase _ _ hs))) fun _ hs =>
      h.ending _ _ _ _ (store _ _ hr hs) (by decide)
  · exact h.enterRx (h.phase _ _ (h.phase _ _ hs)) fun _ hs => h.ending _ _ _ _ hs (by decide)

theorem Strobes.receiveCounted (h : Strobes I P) (zero : ∀ s, I s → I (zeroRxBuf s))
    {size : Nat} (sized : ∀ s, I s → s.params.rxBufLen = size)
    (store : ∀ r s, r.length ≤ size → I s → I (deliver r s))
    (unwritten : ∀ s, I s → s.written.localAddr = false → P (modelFault .unwritten s))
    {n : Nat} {s : State} (hs : I s) : P (receiveCounted n s) := by
  have ovf : ∀ sub s, I s → P (overflow sub s) := fun sub s hs => h.enterRx hs fun _ hs => h.ending _ _ _ _ hs (by decide)
  unfold Machine.receiveCounted
  split
  · exact h.ending _ _ _ _ hs (by decide)
  · refine h.readStatusAt hs fun m s hs => ?_
    split
    · exact ovf _ _ hs
    split
    · exact ovf _ _ hs
    · rename_i hn
      have hn := (sized _ hs) ▸ hn
      refine h.xferAt hs fun miso _ hl hs => h.receiveImage zero store unwritten ?_ hs
      simp only [frameReadBurst, List.length_cons, dummies_length] at hl
      simp only [List.length_drop]
      omega

theorem Samples.receiveBody (h : Samples I P) (draw : ∀ s, I s → I (drawReceive s))
    (zero : ∀ s, I s → I (zeroRxBuf s)) {size : Nat} (sized : ∀ s, I s → s.params.rxBufLen = size)
    (store : ∀ r s, r.length ≤ size → I s → I (deliver r s))
    (unwritten : ∀ s, I s → s.written.localAddr = false → P (modelFault .unwritten s))
    {s : State} (hs : I s) : P (receiveBody s) :=
  h.enterRx (draw _ hs) fun _ hs =>
  h.pollAt hs (fun _ hs => h.ending _ _ _ _ hs (by decide)) fun _ hs =>
  h.stableCount hs fun _ _ hs => h.receiveCounted zero sized store unwritten hs

theorem Transacts.signalBody (h : Transacts I P) (raw : ∀ v s, I s → I (storeRaw v s))
    (dbm : ∀ d s, I s → I (storeDbm d s)) (cls : ∀ c s, I s → I (storeClass c s)) {s : State} (hs : I s) :
    P (signalBody s) :=
  h.xferAt hs fun _ _ _ hs => h.ending _ _ _ _ (cls _ _ (dbm _ _ (raw _ _ hs))) (by decide)

end Sys2Proof.Machine
end

