-- ==== Sys2Proof/Laws/Link.lean ====
section
/-! SUPPORT. What the pieces of RECEIVE do on settled answers, and how framed traces join. -/

namespace Sys2Proof.Machine

@[simp] theorem drawnBuf_length (len n : Nat) : (drawnBuf len n).length = len := by simp [drawnBuf]

theorem frameReadStatus_eq (p : Params) (a : Addr) : frameReadStatus p a = statusFrame p a := by
  simp [frameReadStatus, commandByte_readBurst]

theorem frameReadBurst_fifo (p : Params) (n : Nat) : frameReadBurst p p.addrFifo n = burstReadFrame p n := by
  simp [frameReadBurst, commandByte_readBurst, dummies]

theorem frameWriteBurst_frameOf (p : Params) (dest : Byte) (d : List Byte) :
    frameWriteBurst p.addrFifo (frameOf dest d) = loadFrame p dest d := by
  simp [frameWriteBurst, commandByte_writeBurst, frameOf]

/-- SIDLE, SFRX, SRX on settled answers. -/
theorem enterRx_settled {p₁ p₂ p₃ : Phase} {m₁ m₂ m₃ : Byte} {rest : List (List Byte)} {s : State} {k : State → State}
    (hs : s.env.source = .oracle) (ht : s.env.busTape = [m₁] :: [m₂] :: [m₃] :: rest) :
    enterRx p₁ p₂ p₃ s k = k { s with
      phase := p₃, cs := true, linkMode := .rx, env := { s.env with busTape := rest }
      trace := s.trace ++ rxEntered s.params m₁ m₂ m₃ } := by
  unfold enterRx
  rw [strobeAt_settled (rest := [m₂] :: [m₃] :: rest) hs ht, strobeAt_settled (rest := [m₃] :: rest) (by exact hs) rfl,
    strobeAt_settled (rest := rest) (by exact hs) rfl]
  simp [recordStrobe, moved, atPhase, Strobe.modeAfter, Strobe.code]

/-- A count read that agrees with the one before ends the loop. -/
theorem countLoop_agree (n : Nat) (c : Byte) (s : State) (k : Byte → State → State) : countLoop n c c s k = k c s := by
  cases n <;> simp [countLoop]

/-- The state after settled count reads. -/
def counted (p : Phase) (retries : Nat) (rest : List (List Byte)) (es : List Event) (s : State) : State :=
  { s with
    phase := p, cs := true, retries := retries, env := { s.env with busTape := rest }, trace := s.trace ++ es }

/-- StableCount's loop on settled reads, all of which differ from the one before but for the last (R276). -/
theorem countLoop_settled {k : Byte → State → State} {rest : List (List Byte)} {y c : Byte} :
    ∀ {reads : List (Byte × Byte)} {left : Nat} {c₁ c₂ : Byte} {s : State}, s.env.source = .oracle →
      reads.length < left → s.env.busTape = readAnswers (reads ++ [(y, c)]) ++ rest →
      (c₁ :: c₂ :: reads.map Prod.snd).IsChain (· ≠ ·) → (c₂ :: reads.map Prod.snd).getLast? = some c →
      countLoop left c₁ c₂ s k =
        k c (counted (.rCountRetry (s.retries + reads.length)) (s.retries + reads.length + 1) rest
          (countReads s.params (reads ++ [(y, c)])) s) := by
  intro reads
  induction reads with
  | nil =>
    intro left c₁ c₂ s hs hn ht hc hl
    obtain ⟨left, rfl⟩ := Nat.exists_eq_succ_of_ne_zero (Nat.ne_of_gt hn)
    simp only [List.map_nil, List.isChain_cons_cons, List.isChain_singleton, and_true, ne_eq] at hc
    simp only [List.map_nil, List.getLast?_singleton, Option.some.injEq] at hl
    subst hl
    rw [countLoop, if_neg hc, readStatusAt_settled (m := y) (v := c₂) (rest := rest) hs ht, countLoop_agree]
    simp [counted, moved, atPhase, setRetries, frameReadStatus_eq, countReads]
  | cons r reads ih =>
    obtain ⟨x, d⟩ := r
    intro left c₁ c₂ s hs hn ht hc hl
    obtain ⟨left, rfl⟩ := Nat.exists_eq_succ_of_ne_zero (Nat.ne_of_gt (Nat.lt_of_le_of_lt (Nat.zero_le _) hn))
    rw [List.map_cons, List.isChain_cons_cons] at hc
    rw [countLoop, if_neg hc.1, readStatusAt_settled (rest := readAnswers (reads ++ [(y, c)]) ++ rest) hs ht,
      ih (by exact hs) (Nat.lt_of_succ_lt_succ hn) rfl hc.2 (by simpa using hl)]
    simp [counted, moved, atPhase, setRetries, frameReadStatus_eq, countReads, Nat.add_assoc, Nat.add_comm 1]

/-- StableCount on settled reads that agree (R276). -/
theorem stableCount_settled {reads : List (Byte × Byte)} {c : Byte} {rest : List (List Byte)} {s : State}
    {k : Byte → State → State} (ha : CountAgreed s.params reads c) (hs : s.env.source = .oracle)
    (ht : s.env.busTape = readAnswers reads ++ rest) :
    stableCount s k =
      k c (counted (countPhase reads.length) (reads.length - 2) rest (countReads s.params reads) s) := by
  obtain ⟨earlier, y, rfl, hc, hl, hn⟩ := ha
  unfold stableCount
  match earlier, hc, hl, hn, ht with
  | [], _, hl, _, _ => simp at hl
  | [(x, c')], _, hl, _, ht =>
    simp only [List.map_cons, List.map_nil, List.getLast?_singleton, Option.some.injEq] at hl
    subst hl
    rw [readStatusAt_settled (rest := [y, c'] :: rest) hs ht, readStatusAt_settled (rest := rest) (by exact hs) rfl,
      countLoop_agree]
    simp [counted, moved, atPhase, setRetries, frameReadStatus_eq, countReads, countPhase]
  | (x₁, c₁) :: (x₂, c₂) :: reads, hc, hl, hn, ht =>
    rw [readStatusAt_settled (rest := [x₂, c₂] :: (readAnswers (reads ++ [(y, c)]) ++ rest)) hs (by simpa using ht),
      readStatusAt_settled (rest := readAnswers (reads ++ [(y, c)]) ++ rest) (by exact hs) rfl,
      countLoop_settled (by exact hs) (by simpa using hn) rfl (by simpa using hc) (by simpa using hl)]
    simp [counted, moved, atPhase, setRetries, frameReadStatus_eq, countReads, countPhase]

/-! ### Framed traces (R90, R456) -/

theorem framedFrom_append {b : Bool} {es fs : List Event} (h : framedFrom b es = true) :
    framedFrom b (es ++ fs) = framedFrom false fs := by
  induction es generalizing b with
  | nil => cases b <;> simp_all [framedFrom]
  | cons e es ih => cases b <;> cases e <;> simp_all [framedFrom]

theorem framedFrom_exchanges (l : List (Byte × Byte)) :
    framedFrom true (l.map (fun x => Event.xchg x.1 x.2) ++ [.csHigh]) = true := by
  induction l with
  | nil => rfl
  | cons a l ih => simpa [framedFrom] using ih

@[simp] theorem framedFrom_transaction (mosi miso : List Byte) : framedFrom false (transaction mosi miso) = true := by
  simp [transaction, framedFrom, framedFrom_exchanges]

@[simp] theorem framedFrom_samples (levels : List Bool) : framedFrom false (samples levels) = true := by
  induction levels with
  | nil => rfl
  | cons l levels ih => simpa [framedFrom, samples] using ih

end Sys2Proof.Machine
end

