-- ==== Sys2Proof/Laws/PerInstr.lean ====
section
/-! SUPPORT. Statements made per instruction, one lemma per constructor of Instr. EncodedLength: the bytes of a
well-formed instruction are as many as R131 allows, a bus transaction 1 to 1 + FIFO_SIZE and a host operation 1 to
3 + 2 * 255. -/

namespace Sys2Proof.Laws.EncodedLength

def Statement (i : Instr) : Prop :=
  ∀ p : Params, 1 ≤ p.fifoSize → i.WellFormed p →
    1 ≤ (encode p i).length ∧ (encode p i).length ≤ if i.isBus then 1 + p.fifoSize else 513

theorem busWriteSingle (a : Addr) (v : Byte) : Statement (.busWriteSingle a v) := fun _ hf _ => by
  simp [encode, frameWriteSingle, Instr.isBus]; omega
theorem busWriteBurst (a : Addr) (d : List Byte) : Statement (.busWriteBurst a d) := fun _ _ h => by
  have := h.2.2
  simp [encode, frameWriteBurst, Instr.isBus]
  omega
theorem busReadSingle (a : Addr) : Statement (.busReadSingle a) := fun _ hf _ => by
  simp [encode, frameReadSingle, Instr.isBus]; omega
theorem busReadStatus (a : Addr) : Statement (.busReadStatus a) := fun _ hf _ => by
  simp [encode, frameReadStatus, Instr.isBus]; omega
theorem busReadBurst (a : Addr) (n : Nat) : Statement (.busReadBurst a n) := fun _ _ h => by
  have := h.2.2.2
  simp [encode, frameReadBurst, Instr.isBus]
  omega
theorem busFifoWrite (d : List Byte) : Statement (.busFifoWrite d) := fun _ _ h => by
  have := h.2
  simp [encode, frameWriteBurst, Instr.isBus]
  omega
theorem busFifoRead (n : Nat) : Statement (.busFifoRead n) := fun _ _ h => by
  have := h.2
  simp [encode, frameReadBurst, Instr.isBus]
  omega
theorem busReadRssi : Statement .busReadRssi := fun _ hf _ => by
  simp [encode, frameReadStatus, Instr.isBus]; omega
theorem busReadMarcstate : Statement .busReadMarcstate := fun _ hf _ => by
  simp [encode, frameReadStatus, Instr.isBus]; omega
theorem busReadRxbytes : Statement .busReadRxbytes := fun _ hf _ => by
  simp [encode, frameReadStatus, Instr.isBus]; omega
theorem busSres : Statement .busSres := fun _ _ _ => by simp [encode, frameStrobe, Instr.isBus]
theorem busSrx : Statement .busSrx := fun _ _ _ => by simp [encode, frameStrobe, Instr.isBus]
theorem busStx : Statement .busStx := fun _ _ _ => by simp [encode, frameStrobe, Instr.isBus]
theorem busSidle : Statement .busSidle := fun _ _ _ => by simp [encode, frameStrobe, Instr.isBus]
theorem busSfrx : Statement .busSfrx := fun _ _ _ => by simp [encode, frameStrobe, Instr.isBus]
theorem busSftx : Statement .busSftx := fun _ _ _ => by simp [encode, frameStrobe, Instr.isBus]
theorem wreg (a : Addr) (v : Byte) : Statement (.wreg a v) := fun _ _ _ => by simp [encode, Instr.isBus]
theorem wburst (a : Addr) (d : List Byte) : Statement (.wburst a d) := fun _ _ h => by
  have : d.length ≤ 255 := h
  simp [encode, Instr.isBus]
  omega
theorem rreg (a : Addr) : Statement (.rreg a) := fun _ _ _ => by simp [encode, Instr.isBus]
theorem rstatus (a : Addr) : Statement (.rstatus a) := fun _ _ _ => by simp [encode, Instr.isBus]
theorem rburst (a : Addr) (n : Byte) : Statement (.rburst a n) := fun _ _ _ => by simp [encode, Instr.isBus]
theorem strobe (code : Byte) : Statement (.strobe code) := fun _ _ _ => by simp [encode, Instr.isBus]
theorem reset : Statement .reset := fun _ _ _ => by simp [encode, Instr.isBus]
theorem configure (la : Byte) (image : List (Addr × Byte)) : Statement (.configure la image) := fun _ _ h => by
  have : image.length ≤ 255 := h
  simp [encode, Instr.isBus]
  omega
theorem buildFrame (dest : Byte) (p : List Byte) : Statement (.buildFrame dest p) := fun _ _ h => by
  have : p.length ≤ 255 := h
  simp [encode, Instr.isBus]
  omega
theorem parseFrame (r : List Byte) : Statement (.parseFrame r) := fun _ _ h => by
  have : r.length ≤ 255 := h
  simp [encode, Instr.isBus]
  omega
theorem send (dest : Byte) (p : List Byte) : Statement (.send dest p) := fun _ _ h => by
  have : p.length ≤ 255 := h
  simp [encode, Instr.isBus]
  omega
theorem receive : Statement .receive := fun _ _ _ => by simp [encode, Instr.isBus]
theorem signalStrength : Statement .signalStrength := fun _ _ _ => by simp [encode, Instr.isBus]
theorem rssiDecode (v : Byte) : Statement (.rssiDecode v) := fun _ _ _ => by simp [encode, Instr.isBus]
theorem classify (d : BitVec 16) : Statement (.classify d) := fun _ _ _ => by simp [encode, Instr.isBus]

end Sys2Proof.Laws.EncodedLength
end

