-- ==== Sys2Proof/Tests/Slice0.lean ====
section
/-! SUPPORT. The model's own tests. Expected values are those of spec/95_test_vectors.md (V-...), spec/30_encoding.md
and spec/opcode_table.json; the parameters are those of 95_test_vectors.md section 0. Then a witness for the
hypotheses of every statement of Obligations.lean. -/

namespace Sys2Proof.Tests

open Sys2Proof Sys2Proof.Machine

/-! ### Small states -/

/-- The vectors' parameters. -/
def params : Params :=
  { maxFrame := 62, txStartPolls := 3, txEndPolls := 3, rxPolls := 3, countAgreeRetries := 1, completionPin := 0,
    resetSettle := 0 }

/-- The vectors' parameters with RX_AFTER_TX. -/
def paramsRx : Params := { params with rxAfterTx := true }

/-- Parameters other than R7's values, as R48 allows: they are Distinct and Legal too. -/
def paramsOther : Params :=
  { params with fifoSize := 128, maxFrame := 100, codeSidle := 0x26, addrRssi := 0x31, dummyByte := 0xFF, rssiOffset := 80 }

/-- Settled bus answers and line samples. -/
def answers (bus : List (List Byte)) (lines : List Bool) : Env :=
  { Env.oracle with busTape := bus, lineTape := lines }

/-- Power-on. -/
def fresh (bus : List (List Byte)) (lines : List Bool) : State := State.powerOn params (answers bus lines) []

/-- After a RESET. -/
def ready (bus : List (List Byte)) (lines : List Bool) : State := { fresh bus lines with initialised := true }

/-- After RESET and CONFIGURE 0x66. -/
def linked (bus : List (List Byte)) (lines : List Bool) : State :=
  { fresh bus lines with
    initialised := true, configured := true, localAddr := 0x66, written := { Written.nothing with localAddr := true } }

/-- The state an instruction leaves. -/
def after (i : Instr) (s : State) : State :=
  match exec i s with
  | .next t => t
  | .fault _ => s
  | .refused _ => s

/-- The state a step leaves. -/
def stepped (s : State) : State :=
  match step s with
  | .next t => t
  | .fault _ => s
  | .refused _ => s

/-- Bytes 0 .. n - 1. -/
def count (n : Nat) : List Byte := (List.range n).map (BitVec.ofNat 8)

/-- One reference chip, with one scripted frame. -/
def chip : Chip :=
  { Chip.powerOn with frames := [{ frame := [0x04, 0x66, 0x11, 0x22, 0x33], status1 := 0x2C, status2 := 0x9F }] }

/-- After RESET and CONFIGURE, on the reference transceiver. -/
def onChip : State := { linked [] [] with env := { Env.oracle with source := .reference, chip := chip } }

/-! ### Reset -/

theorem test_reset_memory_wf : Memory.wf State.reset.env.chip.creg := by decide

theorem test_reset_code : State.reset.outcome.code = 15 ∧ State.reset.linkMode.code = 0 := by decide

/-! ### Well-formedness refuses -/

theorem test_wf_burst_write_fifo : ¬ (Instr.busWriteBurst 0x3F [0]).WellFormed params := by simp [Instr.WellFormed, params]
theorem test_wf_burst_write_empty : ¬ (Instr.busWriteBurst 0x00 []).WellFormed params := by simp [Instr.WellFormed, burstFits]
theorem test_wf_burst_write_long : ¬ (Instr.busWriteBurst 0x00 (count 65)).WellFormed params := by
  simp [Instr.WellFormed, burstFits, count, params]
theorem test_wf_status_low : ¬ (Instr.busReadStatus 0x2F).WellFormed params := by
  simp [Instr.WellFormed, params]
theorem test_wf_status_high : ¬ (Instr.busReadStatus 0x3C).WellFormed params := by
  simp [Instr.WellFormed, params]
theorem test_wf_status_named : ¬ (Instr.busReadStatus 0x34).WellFormed params := by
  simp [Instr.WellFormed, params, isNamedStatus]
theorem test_wf_burst_read_fifo : ¬ (Instr.busReadBurst 0x3F 1).WellFormed params := by simp [Instr.WellFormed, params]
theorem test_wf_burst_read_status : ¬ (Instr.busReadBurst 0x30 2).WellFormed params := by
  simp [Instr.WellFormed, params, params]
theorem test_wf_burst_read_long : ¬ (Instr.busReadBurst 0x00 65).WellFormed params := by
  simp [Instr.WellFormed, burstFits, params]
theorem test_wf_fifo_write : ¬ (Instr.busFifoWrite []).WellFormed params := by simp [Instr.WellFormed, burstFits]
theorem test_wf_fifo_read : ¬ (Instr.busFifoRead 65).WellFormed params := by simp [Instr.WellFormed, burstFits, params]
theorem test_wf_wburst : ¬ (Instr.wburst 0x00 (count 256)).WellFormed params := by simp [Instr.WellFormed, count]
theorem test_wf_configure : ¬ (Instr.configure 0 ((count 256).map fun v => (0, v))).WellFormed params := by
  simp [Instr.WellFormed, count]
theorem test_wf_build : ¬ (Instr.buildFrame 0 (count 256)).WellFormed params := by simp [Instr.WellFormed, count]
theorem test_wf_parse : ¬ (Instr.parseFrame (count 256)).WellFormed params := by simp [Instr.WellFormed, count]
theorem test_wf_send : ¬ (Instr.send 0 (count 256)).WellFormed params := by simp [Instr.WellFormed, count]
theorem test_wf_ok : (Instr.busReadStatus 0x30).WellFormed params ∧ (Instr.busReadBurst 0x2E 64).WellFormed params :=
  ⟨⟨by decide, by decide⟩, by decide, by decide, by decide⟩

/-! ### Decoding: words written out from 30_encoding.md R120 to R139 -/

-- cmd = R B A: 00 001001, 01 001001, 10 001001, 11 001001 (V-L1-3).
theorem test_decode_write_single : decodeBus params [0b00001001, 0x66] = .instr (.busWriteSingle 0x09 0x66) := by decide
theorem test_decode_write_burst : decodeBus params [0b01001001, 0x01, 0x02] = .instr (.busWriteBurst 0x09 [0x01, 0x02]) := by
  decide
theorem test_decode_read_single : decodeBus params [0b10001001, 0x00] = .instr (.busReadSingle 0x09) := by decide
theorem test_decode_read_burst : decodeBus params [0b11001001, 0x00, 0x00] = .instr (.busReadBurst 0x09 2) := by decide
theorem test_decode_read_status : decodeBus params [0b11110001, 0x00] = .instr (.busReadStatus 0x31) := by decide
theorem test_decode_fifo_write : decodeBus params [0b01111111, 0x02, 0x66, 0x5A] = .instr (.busFifoWrite [0x02, 0x66, 0x5A]) := by
  decide
theorem test_decode_fifo_read : decodeBus params [0b11111111, 0x00, 0x00] = .instr (.busFifoRead 2) := by decide
theorem test_decode_read_rssi : decodeBus params [0b11110100, 0x00] = .instr .busReadRssi := by decide
theorem test_decode_read_marcstate : decodeBus params [0b11110101, 0x00] = .instr .busReadMarcstate := by decide
theorem test_decode_read_rxbytes : decodeBus params [0b11111011, 0x00] = .instr .busReadRxbytes := by decide
theorem test_decode_sres : decodeBus params [0b00110000] = .instr .busSres := by decide
theorem test_decode_srx : decodeBus params [0b00110100] = .instr .busSrx := by decide
theorem test_decode_stx : decodeBus params [0b00110101] = .instr .busStx := by decide
theorem test_decode_sidle : decodeBus params [0b00110110] = .instr .busSidle := by decide
theorem test_decode_sfrx : decodeBus params [0b00111010] = .instr .busSfrx := by decide
theorem test_decode_sftx : decodeBus params [0b00111011] = .instr .busSftx := by decide
-- R128: 0x3D is a strobe the block never issues.
theorem test_decode_other_strobe : decodeBus params [0x3D] = .rejected (.notAStrobe 0x3D) := by decide
theorem test_decode_wreg : decodeHost [0x01, 0x0D, 0x21] = .instr (.wreg 0x0D 0x21) [] := by decide
theorem test_decode_wburst : decodeHost [0x02, 0x3F, 0x05, 0x04, 0x66, 0x11, 0x22, 0x33] =
    .instr (.wburst 0x3F [0x04, 0x66, 0x11, 0x22, 0x33]) [] := by decide
theorem test_decode_rreg : decodeHost [0x03, 0x00] = .instr (.rreg 0x00) [] := by decide
theorem test_decode_rstatus : decodeHost [0x04, 0x3B] = .instr (.rstatus 0x3B) [] := by decide
theorem test_decode_rburst : decodeHost [0x05, 0x3F, 0x07] = .instr (.rburst 0x3F 7) [] := by decide
theorem test_decode_strobe : decodeHost [0x06, 0x36] = .instr (.strobe 0x36) [] := by decide
theorem test_decode_reset : decodeHost [0x07, 0x08] = .instr .reset [0x08] := by decide
theorem test_decode_configure : decodeHost [0x08, 0x66, 0x01, 0x09, 0x66] = .instr (.configure 0x66 [(0x09, 0x66)]) [] := by
  decide
theorem test_decode_build_frame : decodeHost [0x09, 0x66, 0x02, 0x11, 0x22] = .instr (.buildFrame 0x66 [0x11, 0x22]) [] := by
  decide
theorem test_decode_parse_frame : decodeHost [0x0A, 0x04, 0x03, 0x66, 0x11, 0x22] =
    .instr (.parseFrame [0x03, 0x66, 0x11, 0x22]) [] := by decide
theorem test_decode_send : decodeHost [0x0B, 0x66, 0x03, 0x11, 0x22, 0x33] = .instr (.send 0x66 [0x11, 0x22, 0x33]) [] := by
  decide
theorem test_decode_receive : decodeHost [0x0C] = .instr .receive [] := by decide
theorem test_decode_signal_strength : decodeHost [0x0D] = .instr .signalStrength [] := by decide
theorem test_decode_rssi_decode : decodeHost [0x0E, 0x80] = .instr (.rssiDecode 0x80) [] := by decide
theorem test_decode_classify : decodeHost [0x0F, 0xFF, 0xBA] = .instr (.classify 0xFFBA) [] := by decide
-- V-RA-5, V-HD-1, V-HD-4.
theorem test_decode_refused : decodeHost [0x01, 0x40, 0x00] = .rejected (.addressBits 0x40) [] ∧
    decodeHost [0x00] = .rejected (.reservedOpcode 0x00) [] ∧
    decodeHost [0x0B, 0x66, 0x03, 0x11, 0x22] = .rejected .truncated [] := by decide
theorem test_table_words : decodeTableWord 8 0x7F = some (.busFifoWrite [0x00]) ∧
    decodeTableWord 8 0x07 = some .reset ∧ decodeTableWord 8 0x36 = some .busSidle := by decide

/-! ### Register access (V-RA) -/

theorem test_wreg : (after (.wreg 0x2E 0xFF) (ready [[0x0F, 0x0F]] [])).trace = transaction [0x2E, 0xFF] [0x0F, 0x0F] ∧
    (after (.wreg 0x2E 0xFF) (ready [[0x0F, 0x0F]] [])).outcome = .ok := by decide
-- V-RA-3: refused.
theorem test_wreg_refused : (after (.wreg 0x2F 0x00) (ready [] [])).reply = .notAdmitted ∧
    (after (.wreg 0x2F 0x00) (ready [] [])).trace = [] := by decide
-- V-RA-11, V-RA-12: a burst up to CONFIG_LAST, and one past it.
theorem test_wburst_to_last : (after (.wburst 0x2D [0x01, 0x02]) (ready [[0, 0, 0]] [])).trace =
    transaction [0x6D, 0x01, 0x02] [0, 0, 0] := by decide
theorem test_wburst_past_last : (after (.wburst 0x2E [0x01, 0x02]) (ready [[0, 0, 0]] [])).reply = .notAdmitted := by decide
-- V-RA-13, V-RA-22.
theorem test_rreg : (after (.rreg 0x09) (ready [[0x0F, 0x66]] [])).readRdData = some [0x66] := by decide
theorem test_rreg_fifo : (after (.rreg 0x3F) (ready [[0, 0]] [])).reply = .notAdmitted := by decide
-- V-RA-15, V-RA-16.
theorem test_rstatus : (after (.rstatus 0x35) (ready [[0x0F, 0x0D]] [])).trace = transaction [0xF5, 0x00] [0x0F, 0x0D] := by
  decide
theorem test_rstatus_low : (after (.rstatus 0x2E) (ready [[0, 0]] [])).reply = .notAdmitted := by decide
-- V-RA-19: short, RD_DATA unchanged. V-RA-18: n = 0.
theorem test_rburst_short : (after (.rburst 0x3F 7) (ready [[0x0F, 0x04, 0x66]] [])).outcome = .busFault ∧
    (after (.rburst 0x3F 7) (ready [[0x0F, 0x04, 0x66]] [])).readRdData = none := by decide
theorem test_rburst_empty : (after (.rburst 0x3F 0) (ready [] [])).detail = ⟨.xfer, .malformedLength⟩ := by decide

/-! ### Strobes and RESET (V-ST) -/

-- V-ST-3, V-ST-12.
theorem test_strobe_stx : (after (.strobe 0x35) (ready [[0x0F]] [])).linkMode = .tx := by decide
theorem test_strobe_stx_short : (after (.strobe 0x35) (ready [[]] [])).linkMode = .idle ∧
    (after (.strobe 0x35) (ready [[]] [])).detail = ⟨.strobe, .none⟩ := by decide
-- V-ST-15, V-ST-16.
theorem test_reset : (after .reset (linked [[0x0F]] [])).trace =
      [.csLow, .csHigh, .csLow, .xchg 0x30 0x0F, .csHigh, .settle] ∧
    (after .reset (linked [[0x0F]] [])).configured = false ∧ (after .reset (linked [[0x0F]] [])).localAddr = 0x66 := by
  decide
theorem test_reset_short : (after .reset (linked [[]] [])).initialised = false ∧
    (after .reset (linked [[]] [])).detail = ⟨.rstSres, .none⟩ := by decide

/-! ### CONFIGURE (V-CF) -/

-- V-CF-2, V-CF-3.
theorem test_configure : (after (.configure 0x66 [(0x09, 0x66), (0x07, 0x06)]) (ready [[0, 0], [0, 0]] [])).detail =
      ⟨.cfgWrite 1, .none⟩ ∧
    (after (.configure 0x66 [(0x09, 0x66), (0x07, 0x06)]) (ready [[0, 0], [0, 0]] [])).readLocalAddr = some 0x66 := by decide
theorem test_configure_short :
    (after (.configure 0x66 [(0x09, 0x66), (0x07, 0x06)]) (ready [[0, 0], [0]] [])).outcome = .busFault ∧
    (after (.configure 0x66 [(0x09, 0x66), (0x07, 0x06)]) (ready [[0, 0], [0]] [])).configured = false := by decide

/-! ### Framing (V-FR) -/

-- V-FR-2, V-FR-4.
theorem test_build_frame : (after (.buildFrame 0x66 [0x11, 0x22, 0x33]) (fresh [] [])).txFrameBytes =
    [0x04, 0x66, 0x11, 0x22, 0x33] := by decide
theorem test_build_frame_large : (after (.buildFrame 0x00 (count 61)) (fresh [] [])).outcome = .payloadTooLarge ∧
    (after (.buildFrame 0x00 (count 61)) (fresh [] [])).txFrameLen = 0 := by decide
-- V-FR-12, V-FR-9.
theorem test_parse_frame :
    (after (.parseFrame [0x04, 0x66, 0x11, 0x22, 0x33, 0x2C, 0x1F]) (fresh [] [])).readPfPayload = some [0x11, 0x22, 0x33] := by
  decide
theorem test_parse_frame_short : (after (.parseFrame [0x05, 0x66, 0x11]) (fresh [] [])).detail = ⟨.none, .malformedFrame⟩ := by
  decide

/-! ### SEND and RECEIVE (V-TX, V-RX) -/

/-- The bus answers of V-TX-1. -/
def sendAnswers : List (List Byte) := [[0], [0], [0, 0, 0, 0, 0, 0], [0], [0], [0]]

-- V-TX-2: samples 0, 1, 1, 0.
theorem test_send : (after (.send 0x66 [0x11, 0x22, 0x33]) (linked sendAnswers [false, true, true, false])).trace =
    strobed 0x36 0 ++ strobed 0x3B 0 ++ transaction [0x7F, 0x04, 0x66, 0x11, 0x22, 0x33] [0, 0, 0, 0, 0, 0] ++
    strobed 0x35 0 ++ samples [false, true, true, false] ++ strobed 0x36 0 ++ strobed 0x3B 0 := by decide
-- V-TX-10: the recovery's SIDLE is short.
theorem test_send_recovery_short :
    (after (.send 0x66 [0x11, 0x22, 0x33])
      (linked [[0], [0], [0, 0, 0, 0, 0, 0], [0], []] [false, false, false])).detail = ⟨.sToIdle, .none⟩ ∧
    (after (.send 0x66 [0x11, 0x22, 0x33])
      (linked [[0], [0], [0, 0, 0, 0, 0, 0], [0], []] [false, false, false])).linkMode = .tx := by decide

/-- The bus answers of V-RX-6. -/
def receiveAnswers : List (List Byte) :=
  [[0], [0], [0], [0, 0x03], [0, 0x07], [0, 0x07], [0, 0x0D], [0, 0x04, 0x66, 0x11, 0x22, 0x33, 0x2C, 0x9F], [0], [0], [0]]

/-- The bus answers of V-RX-24. -/
def badCrcAnswers : List (List Byte) :=
  [[0], [0], [0], [0, 0x07], [0, 0x07], [0, 0x0D], [0, 0x04, 0x66, 0x11, 0x22, 0x33, 0x2C, 0x1F], [0], [0], []]

-- V-RX-6: one extra count read.
theorem test_receive : (after .receive (linked receiveAnswers [true])).outcome = .ok ∧
    (after .receive (linked receiveAnswers [true])).retries = 1 ∧
    (after .receive (linked receiveAnswers [true])).rxRssiRaw = 0x2C ∧
    (after .receive (linked receiveAnswers [true])).rxBuf.take 3 = [0x11, 0x22, 0x33] := by decide
-- A BUS_FAULT in a Resume. Of a frame that passed both checks: the outputs are the draws of entry (log 14). Of a frame
-- with CRC-OK = 0: V-RX-24 (R288), RX_BUF all 00, LINK_MODE IDLE.
theorem test_receive_resume_short :
    (after .receive (linked (receiveAnswers.take 9 ++ [[]]) [true])).detail = ⟨.rResFlush, .none⟩ ∧
    (after .receive (linked (receiveAnswers.take 9 ++ [[]]) [true])).rxLen = Config.rxDraw 0 0 ∧
    (after .receive (linked (receiveAnswers.take 9 ++ [[]]) [true])).rxBuf = drawnBuf 64 0 ∧
    (after .receive (linked badCrcAnswers [true])).detail = ⟨.rResSrx, .none⟩ ∧
    (after .receive (linked badCrcAnswers [true])).outcome = .busFault ∧
    (after .receive (linked badCrcAnswers [true])).linkMode = .idle ∧
    (after .receive (linked badCrcAnswers [true])).rxBuf = List.replicate 64 0x00 :=
  ⟨by decide, rfl, rfl, by decide, by decide, by decide, by decide⟩
-- V-RX-13: 69 bytes.
theorem test_receive_over_buffer :
    (after .receive (linked [[0], [0], [0], [0, 0x45], [0, 0x45], [0, 0x0D], [0], [0], [0]] [true])).detail =
    ⟨.rState, .countOverBuffer⟩ := by decide

/-! ### Link quality (section 2.7) -/

-- V-LQ-1, V-LQ-2.
theorem test_signal_strength : (after .signalStrength (linked [[0, 0xC0]] [])).readLqDbm = some (-106) ∧
    (after .signalStrength (linked [[0, 0xC0]] [])).readLqClass = some .veryWeak := by decide
theorem test_signal_strength_short : (after .signalStrength (linked [[0]] [])).readLqRaw = none ∧
    (after .signalStrength (linked [[0]] [])).detail = ⟨.qRead, .none⟩ := by decide
theorem test_rssi_decode_81 : (after (.rssiDecode 0x81) (fresh [] [])).readLqDbm = some (-137) := by decide
theorem test_rssi_decode_32 : (after (.rssiDecode 0x32) (fresh [] [])).readLqDbm = some (-49) := by decide
theorem test_classify_moderate : (after (.classify 0xFFB9) (fresh [] [])).readLqClass = some .moderate := by decide
theorem test_classify_strong : (after (.classify 0xFFBA) (fresh [] [])).readLqClass = some .strong := by decide

/-! ### The parameters are arguments of the model (R7, R48, I32) -/

theorem test_parameter_strobe_code :
    (after (.strobe 0x26) { ready [[0]] [] with params := paramsOther, linkMode := .tx }).linkMode = .idle ∧
    (after (.strobe 0x36) { ready [[0]] [] with params := paramsOther }).reply = .notAdmitted := by decide
theorem test_parameter_address_dummy_offset :
    (after .signalStrength { linked [[0, 0x32]] [] with params := paramsOther }).trace = transaction [0xF1, 0xFF] [0, 0x32] ∧
    (after .signalStrength { linked [[0, 0x32]] [] with params := paramsOther }).readLqDbm = some (-55) := by decide

/-! ### Bus commands: one transaction each (R125, R160) -/

theorem test_bus_write_single : (after (.busWriteSingle 0x09 0x66) (ready [[0, 0]] [])).trace =
    transaction [0x09, 0x66] [0, 0] := by decide
theorem test_bus_write_burst : (after (.busWriteBurst 0x00 [1, 2]) (ready [[0, 0, 0]] [])).trace =
    transaction [0x40, 1, 2] [0, 0, 0] := by decide
theorem test_bus_read_single : (after (.busReadSingle 0x09) (ready [[0, 0x66]] [])).busData = [0x66] := by decide
theorem test_bus_read_status : (after (.busReadStatus 0x31) (ready [[0, 0x14]] [])).trace =
    transaction [0xF1, 0x00] [0, 0x14] := by decide
theorem test_bus_read_burst : (after (.busReadBurst 0x00 2) (ready [[0, 5, 6]] [])).busData = [5, 6] := by decide
theorem test_bus_fifo_write : (after (.busFifoWrite [0xAA]) (ready [[0, 0]] [])).trace = transaction [0x7F, 0xAA] [0, 0] := by
  decide
theorem test_bus_fifo_read : (after (.busFifoRead 2) (ready [[0, 4, 0x66]] [])).trace =
    transaction [0xFF, 0x00, 0x00] [0, 4, 0x66] := by decide
theorem test_bus_read_rssi : (after .busReadRssi (ready [[0, 0x32]] [])).trace = transaction [0xF4, 0x00] [0, 0x32] := by
  decide
theorem test_bus_read_marcstate : (after .busReadMarcstate (ready [[0, 0x0D]] [])).busData = [0x0D] := by decide
theorem test_bus_read_rxbytes : (after .busReadRxbytes (ready [[0, 0x07]] [])).busData = [0x07] := by decide
theorem test_bus_sres : (after .busSres (fresh [[0]] [])).phase = .rstSettle ∧
    (stepped (after .busSres (fresh [[0]] []))).initialised = true := by decide
theorem test_bus_srx : (after .busSrx (ready [[0]] [])).linkMode = .rx := by decide
theorem test_bus_stx : (after .busStx (ready [[0]] [])).linkMode = .tx := by decide
theorem test_bus_sidle : (after .busSidle { ready [[0]] [] with linkMode := .tx }).linkMode = .idle := by decide
theorem test_bus_sfrx : (after .busSfrx { ready [[0]] [] with linkMode := .rx }).trace = strobed 0x3A 0 := by decide
theorem test_bus_sftx : (after .busSftx { ready [[0]] [] with linkMode := .tx }).linkMode = .tx := by decide

/-! ### The reference transceiver (R101 to R108) -/

theorem test_reference_receive : (after .receive onChip).outcome = .ok ∧ (after .receive onChip).rxLen = 0x04 := by decide
theorem test_reference_register :
    ((Chip.powerOn.answer params [0x09, 0x66]).2.answer params [0x89, 0x00]).1 = [0x00, 0x66] := by decide

/-- R106: after STROBE SRX the count and the FIFO show the frame that has arrived, with its two status bytes. -/
theorem test_reference_arrival :
    (after (.rstatus 0x3B) (after (.strobe 0x34) onChip)).rdData = [0x07] ∧
    (after (.rburst 0x3F 7) (after (.strobe 0x34) onChip)).rdData = [0x04, 0x66, 0x11, 0x22, 0x33, 0x2C, 0x9F] := by decide

/-- The chip in RX, with scripted frames of 5, 54 and 1 bytes, the last after one more moment. -/
def chipInRx : Chip :=
  { Chip.powerOn with
    cmode := .rx
    frames := [{ frame := count 5, status1 := 0, status2 := 0 }, { frame := count 54, status1 := 0, status2 := 0 },
      { frame := [0], status1 := 0, status2 := 0x9F, wait := 1 }] }

/-- R106, R107: two frames share RXF (63 bytes); the third waits a moment, then would exceed FIFO_SIZE and overflows RXF. -/
theorem test_reference_frames_share_fifo :
    (chipInRx.sample params).1 = true ∧ (chipInRx.sample params).2.rxbytes = 7 ∧
    ((chipInRx.sample params).2.answer params [0xFB, 0x00]).1 = [0x00, 63] ∧
    (((chipInRx.listen params).listen params).answer params [0xFB, 0x00]).1 = [0x00, 63] ∧
    ((((chipInRx.listen params).listen params).listen params).answer params [0xFB, 0x00]).1 = [0x00, 0xC0] := by decide

/-- R106: with no scripted frame a sample returns 0, whatever the line was before SRX. -/
theorem test_reference_no_frame : ((Chip.strobe { Chip.powerOn with cmode := .tx, line := true } .srx).sample params).1 = false := by
  decide

/-! ### Witnesses: states and operands that meet the hypotheses of each statement

`witness_X` is about Obligations.X; where X has several clauses, or a clause a range, there is one part for each
clause and each end of the range. -/

/-- exec answers `after`, which is what the hypotheses `exec i s = .next t` ask for. -/
theorem exec_after (i : Instr) (s : State) : exec i s = .next (after i s) := by
  cases i <;> rfl

theorem witness_HostEncodingRoundTrips :
    (Instr.wburst 0x3F (count 255)).WellFormed params ∧ (Instr.wburst 0x3F (count 255)).isBus = false ∧
    (Instr.configure 0xFF []).WellFormed params ∧ (Instr.configure 0xFF []).isBus = false :=
  ⟨by simp [Instr.WellFormed, count], rfl, by simp [Instr.WellFormed], rfl⟩

theorem witness_distinct : params.Distinct ∧ params.Legal ∧ paramsOther.Distinct ∧ paramsOther.Legal := by decide

theorem witness_BusEncodingRoundTrips :
    params.Legal ∧ params.Distinct ∧
    (Instr.busFifoWrite (count 64)).WellFormed params ∧ (Instr.busFifoWrite (count 64)).isBus = true ∧
    (Instr.busReadBurst 0x2E 1).WellFormed params ∧ (Instr.busReadBurst 0x2E 1).isBus = true :=
  ⟨by decide, by decide, by simp [Instr.WellFormed, burstFits, count, params], rfl, ⟨by decide, by decide, by decide⟩, rfl⟩

theorem witness_DecodedBytesAreTheEncoding :
    decodeHost [0x03, 0x3F, 0x07] = .instr (.rreg 0x3F) [0x07] ∧ decodeBus params [0xFF, 0x00] = .instr (.busFifoRead 1) := by
  decide

theorem witness_ReservedOpcodesAreRefused :
    HostReady (fresh [] []) ∧ (fresh [] []).busIn = [] ∧
    { fresh [] [] with hostIn := [0x00] }.hostIn = 0x00 :: [] ∧ { fresh [] [] with hostIn := [0x10] }.hostIn = 0x10 :: [] ∧
    16 ≤ (0x10#8).toNat ∧ 16 ≤ (0xFF#8).toNat := by decide

theorem witness_TruncatedAndWideAddressesAreRefused :
    HostReady { fresh [] [] with hostIn := [0x0B, 0x66, 0x01] } ∧
    { fresh [] [] with hostIn := [0x0B, 0x66, 0x01] }.hostIn = (encode params (.send 0x66 [0x11])).take 3 ∧
    3 < (encode params (.send 0x66 [0x11])).length ∧
    64 ≤ (0x40#8).toNat ∧ (1#8).toNat = [0x11#8].length ∧
    { fresh [] [] with hostIn := [0x02, 0x40, 0x01, 0x11, 0x07] }.hostIn = ([0x02, 0x40, 0x01] ++ [0x11]) ++ [0x07] ∧
    (2#8).toNat = [(0x00#8, 0x01#8), (0x40, 0x02)].length ∧ (∃ x ∈ [(0x00#8, 0x01#8), (0x40, 0x02)], 64 ≤ x.1.toNat) ∧
    { fresh [] [] with hostIn := [0x08, 0x66, 0x02, 0x00, 0x01, 0x40, 0x02, 0x07] }.hostIn =
      0x08 :: 0x66 :: 0x02 :: ([(0x00#8, 0x01#8), (0x40, 0x02)].flatMap fun x => [x.1, x.2]) ++ [0x07] := by
  decide

theorem witness_StepRunsTheDecodedInstruction :
    { fresh [] [] with busIn := [[0x36], [0x34]] }.busIn = [0x36] :: [[0x34]] ∧ decodeBus params [0x36] = .instr .busSidle ∧
    { fresh [] [] with hostIn := [0x07, 0x0C] }.busIn = [] ∧
    decodeHost { fresh [] [] with hostIn := [0x07, 0x0C] }.hostIn = .instr .reset [0x0C] := by decide

theorem witness_StepWithoutAnInstruction :
    ({ fresh [] [] with busIn := [[0x3D]] }.faulted = false ∧ decodeBus params [0x3D] = .rejected (.notAStrobe 0x3D)) ∧
    ((fresh [] []).busIn = [] ∧ (fresh [] []).hostIn = [] ∧ (fresh [] []).phase ≠ .rstSettle) ∧
    (after .busSres (fresh [[0]] [])).busIn = [] ∧ (after .busSres (fresh [[0]] [])).hostIn = [] ∧
    (after .busSres (fresh [[0]] [])).phase = .rstSettle ∧ (after .busSres (fresh [[0]] [])).faulted = false := by decide

theorem witness_linked_invariant (bus : List (List Byte)) (lines : List Bool) : BlockInv (linked bus lines) := by
  simp [BlockInv, linked, fresh, State.powerOn, params, answers, Env.oracle, Chip.powerOn, Memory.wf, Params.Legal,
    Params.rxBufLen]

theorem witness_InvariantKept :
    BlockInv (linked [] []) ∧ step { linked [] [] with hostIn := [] } = .next (linked [] []) :=
  ⟨witness_linked_invariant [] [], rfl⟩

theorem witness_FaultedBlockDoesNothing : { fresh [] [] with faulted := true }.faulted = true := rfl

theorem witness_BusyBlockFaults :
    (Instr.rssiDecode 0).isBus = false ∧ (after .busSres (fresh [[0]] [])).faulted = false ∧
    (after .busSres (fresh [[0]] [])).busy = true := by decide

theorem witness_RefusedOperationsChangeNothing :
    (fresh [] []).faulted = false ∧ (fresh [] []).busy = false ∧
    ¬ Admitted params (.wreg 0x2F 0) ∧ ¬ Admitted params (.wburst 0x2E [1, 2]) ∧ ¬ Admitted params (.rreg 0x2F) ∧
    ¬ Admitted params (.rstatus 0x2F) ∧ ¬ Admitted params (.rstatus 0x3C) ∧ ¬ Admitted params (.rburst 0x2E 2) ∧
    ¬ Admitted params (.strobe 0x30) ∧ ¬ Admitted params (.configure 0 [(0x2F, 0)]) ∧ ¬ Admitted params (.busReadSingle 0x2F) ∧
    ¬ Admitted params (.busFifoRead 65) := by
  simp [Admitted, ConfigRange, StatusRange, BurstRange, fresh, State.powerOn, params]

theorem witness_GatedOperationsFault :
    (HostReady (fresh [] []) ∧ DrivesBus (.wreg 0x2E 0) ∧ Admitted params (.wreg 0x2E 0) ∧
      ¬ ArgumentsReported (fresh [] []) (.wreg 0x2E 0) ∧ (fresh [] []).initialised = false) ∧
    (HostReady (ready [] []) ∧ NeedsConfiguration (.send 0 (count 60)) ∧
      ¬ ArgumentsReported (ready [] []) (.send 0 (count 60)) ∧ (ready [] []).initialised = true ∧
      (ready [] []).configured = false) ∧
    (fresh [] []).faulted = false ∧ Instr.busSidle.isBus = true ∧ Instr.busSidle ≠ .busSres ∧ Admitted params .busSidle ∧
    (fresh [] []).phase ≠ .rstSettle ∧ (fresh [] []).initialised = false := by
  refine ⟨⟨by decide, trivial, ?_, id, rfl⟩, ⟨by decide, trivial, ?_, rfl, rfl⟩, rfl, rfl, by decide, trivial, by decide, rfl⟩
  · show ConfigRange params 0x2E
    decide
  · show ¬ (62 < (count 60).length + 2)
    simp [count]

theorem witness_FlushOutsideIdleFaults :
    (BusReady { ready [] [] with linkMode := .rx } ∧ { ready [] [] with linkMode := .rx }.linkMode ≠ .idle) ∧
    (linked receiveAnswers [true]).faultCause ≠ some .flushNotIdle ∧
    exec .receive (linked receiveAnswers [true]) = .next (after .receive (linked receiveAnswers [true])) := by
  exact ⟨by decide, by decide, exec_after _ _⟩

theorem witness_SettleWaitFaults :
    Instr.busReadRssi.isBus = true ∧ (after .busSres (fresh [[0]] [])).faulted = false ∧ Admitted params .busReadRssi ∧
    (after .busSres (fresh [[0]] [])).phase = .rstSettle :=
  ⟨by decide, by decide, trivial, by decide⟩

theorem witness_ModelFaultsChangeNothingElse :
    BlockInv { linked [] [] with linkMode := .rx } ∧
    exec (.strobe 0x3A) { linked [] [] with linkMode := .rx } =
      .next (after (.strobe 0x3A) { linked [] [] with linkMode := .rx }) ∧
    (after (.strobe 0x3A) { linked [] [] with linkMode := .rx }).faulted = true :=
  ⟨witness_linked_invariant [] [], exec_after _ _, by decide⟩

theorem witness_MalformedBurstLength :
    HostReady (fresh [] []) ∧ ConfigRange params 0x2E ∧ (0x3F#6 = 0x3F) ∧ (count 65).length = 65 ∧ (0#8).toNat = 0 ∧
    64 < (65#8).toNat := by decide

theorem witness_PayloadTooLargeNoBusActivity :
    HostReady (fresh [] []) ∧ (fresh [] []).params.maxFrame < (count 61).length + 2 := by decide

theorem witness_WregCompletes :
    BusReady (ready [[0x0F, 0x0F]] []) ∧ ConfigRange params 0x2E ∧ ConfigRange params 0x00 ∧
    (ready [[0x0F, 0x0F]] []).busAnswer [(0x2E#6).setWidth 8, 0xFF] = ([0x0F, 0x0F], answers [] []) := by decide

theorem witness_WburstCompletes :
    BusReady (ready [[0, 0, 0]] []) ∧ BurstRange params 0x2D [1#8, 2#8].length ∧ BurstRange params 0x3F (count 64).length ∧
    (ready [[0, 0, 0]] []).busAnswer ((0x40 ||| (0x2D#6).setWidth 8) :: [1, 2]) = ([0, 0, 0], answers [] []) := by
  decide

theorem witness_ReadsCompleteWithTheirData :
    BusReady (ready [[0, 0x66]] []) ∧ ConfigRange params 0x2E ∧ StatusRange params 0x30 ∧ StatusRange params 0x3B ∧
    BurstRange params 0x2E (1#8).toNat ∧ BurstRange params 0x3F (64#8).toNat ∧
    (ready [[0, 0x66]] []).busAnswer [0x80 ||| (0x2E#6).setWidth 8, 0x00] = (0 :: [0x66], answers [] []) ∧
    (ready [[0, 0x66]] []).busAnswer [0xC0 ||| (0x30#6).setWidth 8, 0x00] = (0 :: [0x66], answers [] []) ∧
    (ready [[0, 0x66]] []).busAnswer ((0xC0 ||| (0x2E#6).setWidth 8) :: List.replicate (1#8).toNat 0x00) =
      (0 :: [0x66], answers [] []) := by decide

theorem witness_ShortRegisterAccessFaults :
    BusReady (ready [[0]] []) ∧ Admitted params (.rstatus 0x30) ∧ ¬ ArgumentsReported (ready [[0]] []) (.rstatus 0x30) ∧
    (ready [[0]] []).busAnswer [0xC0 ||| (0x30#6).setWidth 8, 0x00] = ([0], answers [] []) ∧
    (ready [[0]] []).busAnswer [(0x2E#6).setWidth 8, 0x00] = ([0], answers [] []) := by
  refine ⟨by decide, ?_, id, by decide, by decide⟩
  show StatusRange params 0x30
  decide

theorem witness_StrobesSetLinkMode :
    BusReady (ready [[0x0F]] []) ∧ (ready [[0x0F]] []).params.Distinct ∧ (ready [[0x0F]] []).linkMode = .idle ∧
    (ready [[0x0F]] []).busAnswer [params.codeSftx] = ([0x0F], answers [] []) ∧
    (ready [[]] []).busAnswer [params.codeSrx] = ([], answers [] []) := by decide

theorem witness_ResetCompletes :
    HostReady (linked [[0x0F]] []) ∧ (linked [[0x0F]] []).busAnswer [0x30] = ([0x0F], answers [] []) ∧
    (linked [[]] []).busAnswer [0x30] = ([], answers [] []) := by decide

theorem witness_ConfigureCompletes_range :
    ∀ x ∈ [((0x00 : Addr), (1 : Byte)), (0x2E, 2)], ConfigRange params x.1 := by simp [params]

theorem witness_ConfigureCompletes :
    BusReady (ready [[0, 0], [0, 0]] []) ∧ (ready [[0, 0], [0, 0]] []).phase = .none ∧
    ([[(0 : Byte), 0], [0, 0]].all fun m => m.length = 2) = true ∧
    Settled (ready [[0, 0], [0, 0]] []) ([[0, 0], [0, 0]] ++ []) [] ∧
    Settled (ready [] []) ([] ++ []) [] ∧
    Settled (ready [[0, 0], [0]] []) ([[0, 0]] ++ [0] :: []) [] := by decide

theorem witness_BuildFrameCompletes :
    HostReady (fresh [] []) ∧ (count 60).length + 2 ≤ (fresh [] []).params.maxFrame := by decide

theorem witness_ParseFrameCompletes :
    HostReady (fresh [] []) ∧ (0 : Nat) + 1 < (2#8).toNat ∧ (1#8).toNat = ([] : List Byte).length + 1 ∧
    (255#8).toNat = (count 254).length + 1 := by
  simp [HostReady, fresh, State.powerOn, count]

theorem witness_FrameRoundTrips :
    HostReady (fresh [] []) ∧ (fresh [] []).params.Legal ∧ (count 60).length + 2 ≤ (fresh [] []).params.maxFrame := by
  decide

theorem witness_SendCompletes :
    LinkReady (linked sendAnswers [false, true, true, false]) ∧
    (linked sendAnswers [false, true, true, false]).params.rxAfterTx = false ∧ 1 < params.txStartPolls ∧
    1 < params.txEndPolls ∧ [(0x11 : Byte), 0x22, 0x33].length + 2 ≤ params.maxFrame ∧
    [(0 : Byte), 0, 0, 0, 0, 0].length = [(0x11 : Byte), 0x22, 0x33].length + 3 ∧
    ChipConfigOk.Sending 1 1 (linked sendAnswers [false, true, true, false]).env.lineTape [] ∧
    (linked sendAnswers [false, true, true, false]).env.source = .oracle ∧
    (linked sendAnswers [false, true, true, false]).env.busTape =
      [0] :: [0] :: [0, 0, 0, 0, 0, 0] :: [0] :: [0] :: [0] :: [] :=
  ⟨by decide, rfl, by decide, by decide, by decide, rfl, ⟨rfl⟩, rfl, rfl⟩

theorem witness_SendReentersRx :
    LinkReady { linked (sendAnswers ++ [[0], [0]]) [true, false] with params := paramsRx } ∧
    paramsRx.rxAfterTx = true ∧ 0 < paramsRx.txStartPolls ∧ 0 < paramsRx.txEndPolls ∧
    ChipConfigOk.Sending 0 0 (linked (sendAnswers ++ [[0], [0]]) [true, false]).env.lineTape [] ∧
    (linked (sendAnswers ++ [[0], [0]]) [true, false]).env.source = .oracle ∧
    (linked (sendAnswers ++ [[0], [0]]) [true, false]).env.busTape =
      [0] :: [0] :: [0, 0, 0, 0, 0, 0] :: [0] :: [0] :: [0] :: [0] :: [0] :: [] :=
  ⟨by decide, rfl, by decide, by decide, ⟨rfl⟩, rfl, rfl⟩

theorem witness_SendTimesOut :
    LinkReady (linked sendAnswers [false, false, false]) ∧
    (linked sendAnswers [false, false, false]).env.busTape =
      [0] :: [0] :: [0, 0, 0, 0, 0, 0] :: [0] :: [0] :: [0] :: [] ∧
    (linked sendAnswers [false, false, false]).env.lineTape = List.replicate params.txStartPolls false ++ [] ∧
    2 < params.txStartPolls ∧
    (linked sendAnswers [false, false, true, true, true, true]).env.lineTape =
      List.replicate 2 false ++ true :: (List.replicate params.txEndPolls true ++ []) := by decide

/-- The bus answers of a RECEIVE whose count reads give 0x03, 0x84, 0x84 and whose image is `image`. -/
def imageAnswers (image : List Byte) : List (List Byte) :=
  [0] :: [0] :: [0] :: readAnswers [(0x0F, 0x03), (0x0F, 0x84), (0x1F, 0x84)] ++
    [0, 0x0D] :: (0 :: image) :: [0] :: [0] :: [0] :: []

/-- Those count reads agree on 0x84, after one retry. -/
theorem witness_CountAgreed : CountAgreed params [(0x0F, 0x03), (0x0F, 0x84), (0x1F, 0x84)] 0x84 :=
  ⟨[(0x0F, 0x03), (0x0F, 0x84)], 0x1F, rfl, by decide, rfl, by decide⟩

theorem witness_ReceiveDelivers :
    LinkReady (linked (imageAnswers [0x01, 0x66, 0x2C, 0x9F]) [false, true]) ∧
    (linked (imageAnswers [0x01, 0x66, 0x2C, 0x9F]) [false, true]).written.localAddr = true ∧ 1 < params.rxPolls ∧
    CountAgreed params [(0x0F, 0x03), (0x0F, 0x84), (0x1F, 0x84)] 0x84 ∧
    (0x84#8 &&& params.rxbytesCountMask).toNat = [(0x01 : Byte), 0x66, 0x2C, 0x9F].length ∧
    [(0x01 : Byte), 0x66, 0x2C, 0x9F].length ≤ params.rxBufLen ∧
    0x0D#8 &&& params.marcstateMask ≠ params.marcstateOverflow ∧
    ChipConfigOk.Receiving params 0x01 0x66 [] 0x2C 0x9F [] true [0x01, 0x66, 0x2C, 0x9F] 1
      (linked (imageAnswers [0x01, 0x66, 0x2C, 0x9F]) [false, true]).env.lineTape [] ∧
    (0x66 : Byte) = (linked [] []).localAddr ∧
    (linked (imageAnswers [0x01, 0x66, 0x2C, 0x9F]) [false, true]).env.source = .oracle :=
  ⟨by decide, rfl, by decide, witness_CountAgreed, by decide, by decide, by decide, ⟨rfl, rfl, rfl, by decide⟩, rfl, rfl⟩

-- The other end: V-RX-14, 64 bytes in the FIFO, the first two count reads agreeing.
theorem witness_ReceiveDelivers_full :
    CountAgreed params [(0, 0x40), (0, 0x40)] 0x40 ∧
    (0x40#8 &&& params.rxbytesCountMask).toNat = (0x3D :: 0x66 :: (count 60 ++ 0x2C :: 0x9F :: [])).length ∧
    (0x3D :: 0x66 :: (count 60 ++ 0x2C :: 0x9F :: [])).length ≤ params.rxBufLen ∧
    ChipConfigOk.Receiving params 0x3D 0x66 (count 60) 0x2C 0x9F [] true
      (0x3D :: 0x66 :: (count 60 ++ 0x2C :: 0x9F :: [])) 0 [true] [] :=
  ⟨⟨[(0, 0x40)], 0, rfl, by decide, rfl, by decide⟩, by decide, by decide, ⟨by decide, rfl, rfl, by decide⟩⟩

theorem witness_ReceiveReportsNoData :
    LinkReady (linked [[0], [0], [0], [0, 0x80], [0, 0x80]] [true]) ∧ 0 < params.rxPolls ∧
    CountAgreed params [(0, 0x80), (0, 0x80)] 0x80 ∧ 0x80#8 &&& params.rxbytesCountMask = 0 ∧
    Settled (linked [[0], [0], [0], [0, 0x80], [0, 0x80]] [true])
      ([0] :: [0] :: [0] :: readAnswers [(0, 0x80), (0, 0x80)] ++ []) (List.replicate 0 false ++ true :: []) :=
  ⟨by decide, by decide, ⟨[(0, 0x80)], 0, rfl, by decide, rfl, by decide⟩, by decide, by decide⟩

-- Both ways to overflow: a count of 65 bytes, and MARCSTATE.
theorem witness_ReceiveReportsOverflow :
    LinkReady (linked [[0], [0], [0], [0, 0x41], [0, 0x41], [0, 0x0D], [0], [0], [0]] [true]) ∧
    CountAgreed params [(0, 0x41), (0, 0x41)] 0x41 ∧ 0x41#8 &&& params.rxbytesCountMask ≠ 0 ∧
    params.rxBufLen < (0x41#8 &&& params.rxbytesCountMask).toNat ∧
    0xF1#8 &&& params.marcstateMask = params.marcstateOverflow ∧
    Settled (linked [[0], [0], [0], [0, 0x41], [0, 0x41], [0, 0x0D], [0], [0], [0]] [true])
      ([0] :: [0] :: [0] :: readAnswers [(0, 0x41), (0, 0x41)] ++ [0, 0x0D] :: [0] :: [0] :: [0] :: [])
      (List.replicate 0 false ++ true :: []) :=
  ⟨by decide, ⟨[(0, 0x41)], 0, rfl, by decide, rfl, by decide⟩, by decide, by decide, by decide, by decide⟩

-- The three clauses: a length byte of 0, one too long by 1, CRC-OK 0.
theorem witness_ReceiveReportsCrcError :
    LinkReady (linked (imageAnswers [0x00, 0x66, 0x11, 0x22]) [true]) ∧
    (0x84#8 &&& params.rxbytesCountMask).toNat = [(0x66 : Byte), 0x11, 0x22].length + 1 ∧
    [(0x66 : Byte), 0x11, 0x22].length + 1 ≤ params.rxBufLen ∧
    [(0x66 : Byte), 0x11, 0x22].length + 1 < (2#8).toNat + 3 ∧
    ([(0x66 : Byte), 0x2C, 0x1F].getD ((1#8).toNat + 1) 0).getLsbD params.crcOkBit = false ∧
    Settled (linked (imageAnswers [0x00, 0x66, 0x11, 0x22]) [true])
      ([0] :: [0] :: [0] :: readAnswers [(0x0F, 0x03), (0x0F, 0x84), (0x1F, 0x84)] ++
        [0, 0x0D] :: (0 :: 0x00 :: [0x66, 0x11, 0x22]) :: [0] :: [0] :: [0] :: [])
      (List.replicate 0 false ++ true :: []) := by decide

theorem witness_ReceiveReportsAddressMismatch :
    LinkReady (linked (imageAnswers [0x01, 0x55, 0x2C, 0x9F]) [true]) ∧ (0x55 : Byte) ≠ (linked [] []).localAddr ∧
    ChipConfigOk.Receiving params 0x01 0x55 [] 0x2C 0x9F [] true [0x01, 0x55, 0x2C, 0x9F] 0
      (linked (imageAnswers [0x01, 0x55, 0x2C, 0x9F]) [true]).env.lineTape [] ∧
    (linked (imageAnswers [0x01, 0x55, 0x2C, 0x9F]) [true]).env.busTape =
      [0] :: [0] :: [0] :: readAnswers [(0x0F, 0x03), (0x0F, 0x84), (0x1F, 0x84)] ++
        [0, 0x0D] :: (0 :: [0x01, 0x55, 0x2C, 0x9F]) :: [0] :: [0] :: [0] :: [] :=
  ⟨by decide, by decide, ⟨rfl, rfl, rfl, by decide⟩, rfl⟩

theorem witness_ReceiveTimesOut :
    LinkReady (linked [[0], [0], [0]] [false, false, false]) ∧
    Settled (linked [[0], [0], [0]] [false, false, false]) ([0] :: [0] :: [0] :: [])
      (List.replicate params.rxPolls false ++ []) := by decide

-- V-RX-7; then an agreed count after the most reads that masks to 0, and one that does not.
theorem witness_CountIsDebounced :
    LinkReady (linked ([[0], [0], [0]] ++ readAnswers [(0x0F, 0x03), (0x1F, 0x07), (0x0F, 0x05)]) [true]) ∧
    ([(0x0F, 0x03), (0x1F, 0x07), (0x0F, 0x05)].map (Prod.snd : Byte × Byte → Byte)).IsChain (· ≠ ·) ∧
    [((0x0F : Byte), (0x03 : Byte)), (0x1F, 0x07), (0x0F, 0x05)].length = params.countAgreeRetries + 2 ∧
    Settled (linked ([[0], [0], [0]] ++ readAnswers [(0x0F, 0x03), (0x1F, 0x07), (0x0F, 0x05)]) [true])
      ([0] :: [0] :: [0] :: readAnswers [(0x0F, 0x03), (0x1F, 0x07), (0x0F, 0x05)] ++ [])
      (List.replicate 0 false ++ true :: []) := by decide

theorem witness_CountIsDebounced_agreed :
    (CountAgreed params [(0, 0x03), (0, 0x80), (0, 0x80)] 0x80 ∧ 0x80#8 &&& params.rxbytesCountMask = 0) ∧
    CountAgreed params [(0x0F, 0x03), (0x0F, 0x84), (0x1F, 0x84)] 0x84 ∧ 0x84#8 &&& params.rxbytesCountMask ≠ 0 :=
  ⟨⟨⟨[(0, 0x03), (0, 0x80)], 0, rfl, by decide, rfl, by decide⟩, by decide⟩, witness_CountAgreed, by decide⟩

theorem witness_SignalStrengthCompletes :
    LinkReady (linked [[0, 0xC0]] []) ∧ (linked [[0, 0xC0]] []).busAnswer [0xF4, 0x00] = ([0, 0xC0], answers [] []) ∧
    (linked [[0]] []).busAnswer [0xF4, 0x00] = ([0], answers [] []) := by decide

theorem witness_RssiDecodeCompletes :
    HostReady (fresh [] []) ∧ 128 ≤ (0x80#8).toNat ∧ (0x7F#8).toNat < 128 := by decide

theorem witness_ClassifyCompletes : HostReady (fresh [] []) := by decide

theorem witness_BusWritesComplete :
    CommandReady (ready [[0, 0]] []) ∧ ConfigRange params 0x2E ∧ BurstRange params 0x2E 1 ∧
    (ready [[0, 0]] []).busAnswer [(0x2E#6).setWidth 8, 0xFF] = ([0, 0], answers [] []) ∧
    (ready [[0, 0]] []).busAnswer ((0x40 ||| (0x2E#6).setWidth 8) :: [0xFF]) = ([0, 0], answers [] []) ∧
    (ready [[0, 0]] []).busAnswer (0x7F :: [0xFF]) = ([0, 0], answers [] []) := by decide

theorem witness_BusReadsComplete :
    CommandReady (ready [[0, 1]] []) ∧ ConfigRange params 0x2E ∧ StatusRange params 0x3B ∧ BurstRange params 0x2E 1 ∧
    (ready [[0, 1]] []).busAnswer [0x80 ||| (0x2E#6).setWidth 8, 0x00] = (0 :: [1], answers [] []) ∧
    (ready [[0, 1]] []).busAnswer [0xC0 ||| (0x3B#6).setWidth 8, 0x00] = (0 :: [1], answers [] []) ∧
    (ready [[0, 1]] []).busAnswer (0xFF :: List.replicate 1 0x00) = (0 :: [1], answers [] []) ∧
    (ready [[0, 1]] []).busAnswer [0xF4, 0x00] = (0 :: [1], answers [] []) := by decide

theorem witness_BusStrobesComplete :
    (CommandReady { ready [[0]] [] with linkMode := .tx } ∧
      (Instr.busSftx, 0x3B#8, LinkMode.tx) ∈ [(Instr.busSftx, 0x3B#8, LinkMode.tx)] ∧
      { ready [[0]] [] with linkMode := .tx }.busAnswer [0x3B] = ([0], answers [] [])) ∧
    (fresh [[0]] []).faulted = false ∧ (fresh [[0]] []).phase ≠ .rstSettle ∧
    (fresh [[0]] []).busAnswer [0x30] = ([0], answers [] []) := by decide

theorem witness_ResetIsPulseSresSettle :
    HostReady (fresh [[0]] []) ∧ (fresh [[0]] []).phase = .none ∧ (fresh [[0]] []).busIn = [] ∧
    (fresh [[0]] []).hostIn = [] ∧ (fresh [[0]] []).busAnswer [0x30] = ([0], answers [] []) ∧
    (fresh [[]] []).busAnswer [0x30] = ([], answers [] []) := by decide

theorem witness_ShortBusCommandFaults :
    CommandReady (ready [[0]] []) ∧ Instr.busReadRssi.isBus = true ∧ Instr.busReadRssi ≠ .busSres ∧
    Admitted params .busReadRssi ∧ (ready [[0]] []).busAnswer (encode params .busReadRssi) = ([0], answers [] []) ∧
    [(0 : Byte)].length < (encode params .busReadRssi).length :=
  ⟨by decide, rfl, by decide, trivial, by decide, by decide⟩

-- The frame statements ask only that exec answers a next state.
theorem witness_frames :
    exec (.wreg 0x09 0x66) onChip = .next (after (.wreg 0x09 0x66) onChip) ∧
    exec (.wburst 0x3F [1]) onChip = .next (after (.wburst 0x3F [1]) onChip) ∧
    exec (.rreg 0x09) onChip = .next (after (.rreg 0x09) onChip) ∧
    exec (.strobe 0x36) onChip = .next (after (.strobe 0x36) onChip) ∧
    exec .reset onChip = .next (after .reset onChip) ∧
    exec (.configure 0x66 [(0, 1)]) onChip = .next (after (.configure 0x66 [(0, 1)]) onChip) ∧
    exec (.buildFrame 0x66 []) onChip = .next (after (.buildFrame 0x66 []) onChip) ∧
    exec (.parseFrame [1, 2]) onChip = .next (after (.parseFrame [1, 2]) onChip) ∧
    exec (.rssiDecode 0) onChip = .next (after (.rssiDecode 0) onChip) ∧
    exec (.classify 0) onChip = .next (after (.classify 0) onChip) ∧
    exec (.send 0x66 []) onChip = .next (after (.send 0x66 []) onChip) ∧
    exec .receive onChip = .next (after .receive onChip) ∧
    exec .signalStrength onChip = .next (after .signalStrength onChip) ∧
    exec (.busWriteSingle 0 1) onChip = .next (after (.busWriteSingle 0 1) onChip) ∧
    exec (.busFifoRead 1) onChip = .next (after (.busFifoRead 1) onChip) ∧
    exec .busSres onChip = .next (after .busSres onChip) := by
  simp only [exec_after, and_self]

theorem witness_ReceiveEndsInRx :
    BlockInv (linked receiveAnswers [true]) ∧ LinkReady (linked receiveAnswers [true]) ∧
    exec .receive (linked receiveAnswers [true]) = .next (after .receive (linked receiveAnswers [true])) ∧
    (after .receive (linked receiveAnswers [true])).outcome ≠ .busFault :=
  ⟨witness_linked_invariant _ _, by decide, exec_after _ _, by decide⟩

theorem witness_TraceStaysFramed :
    framedFrom false (after (.wreg 0x09 0x66) onChip).trace = true ∧
    step (after (.wreg 0x09 0x66) onChip) = .next (stepped (after (.wreg 0x09 0x66) onChip)) := by
  exact ⟨by decide, rfl⟩

theorem witness_FlushesFollowSidle :
    onChip.params.Distinct ∧ exec (.send 0x66 [1]) onChip = .next (after (.send 0x66 [1]) onChip) ∧
    exec .receive onChip = .next (after .receive onChip) := ⟨by decide, exec_after _ _, exec_after _ _⟩

theorem witness_LinkOperationsAreBounded :
    exec (.send 0x66 [1]) onChip = .next (after (.send 0x66 [1]) onChip) ∧
    exec .receive onChip = .next (after .receive onChip) := ⟨exec_after _ _, exec_after _ _⟩

-- V-TX-8: the load moves 2 of 6 bytes. Then a RECEIVE whose burst read is short.
theorem witness_LinkBusFaultIsLast :
    (BlockInv (linked [[0], [0], [0, 0]] []) ∧ LinkReady (linked [[0], [0], [0, 0]] []) ∧
    exec (.send 0x66 [0x11, 0x22, 0x33]) (linked [[0], [0], [0, 0]] []) =
      .next (after (.send 0x66 [0x11, 0x22, 0x33]) (linked [[0], [0], [0, 0]] [])) ∧
    (after (.send 0x66 [0x11, 0x22, 0x33]) (linked [[0], [0], [0, 0]] [])).outcome = .busFault) ∧
    BlockInv (linked (receiveAnswers.take 7 ++ [[0, 0x04]]) [true]) ∧
    exec .receive (linked (receiveAnswers.take 7 ++ [[0, 0x04]]) [true]) =
      .next (after .receive (linked (receiveAnswers.take 7 ++ [[0, 0x04]]) [true])) ∧
    (after .receive (linked (receiveAnswers.take 7 ++ [[0, 0x04]]) [true])).outcome = .busFault ∧
    (after .receive (linked (receiveAnswers.take 7 ++ [[0, 0x04]]) [true])).detail = ⟨.rBurst, .none⟩ :=
  ⟨⟨witness_linked_invariant _ _, by decide, exec_after _ _, by decide⟩, witness_linked_invariant _ _, exec_after _ _,
    by decide, by decide⟩

theorem witness_CompletionBeforeFlush :
    LinkReady (linked sendAnswers [true, false]) ∧
    [(0x11 : Byte), 0x22, 0x33].length + 2 ≤ (linked sendAnswers [true, false]).params.maxFrame ∧
    exec (.send 0x66 [0x11, 0x22, 0x33]) (linked sendAnswers [true, false]) =
      .next (after (.send 0x66 [0x11, 0x22, 0x33]) (linked sendAnswers [true, false])) ∧
    (after (.send 0x66 [0x11, 0x22, 0x33]) (linked sendAnswers [true, false])).outcome = .ok :=
  ⟨by decide, by decide, exec_after _ _, by decide⟩

theorem witness_ReferenceTransceiverAnswers :
    [(0x36 : Byte)] ≠ [] ∧ 1 ≤ (count 47).length ∧ (count 47).length ≤ params.fifoSize ∧
    (0x00#6).toNat + (count 47).length ≤ params.configLast.toNat + 1 ∧ (0x00#6) ≠ params.addrFifo ∧
    ¬ StatusRange params 0x00 ∧ (0x2E#6).toNat + [(1 : Byte)].length ≤ params.configLast.toNat + 1 := by decide

end Sys2Proof.Tests
end

section
/-! PROOFS. The scope statements of 00_scope.md: the bus encoding's round trip, where a step's instruction comes from,
and the state at reset. -/

namespace Sys2Proof

/-! ### The bus decoder by frame format (R125)

One equation per format, through which every bus command's round trip goes. -/

/-- FST. -/
theorem decodeBus_frameStrobe (p : Params) (c : Byte) : decodeBus p (frameStrobe c) = decodeStrobeFrame p c := rfl

/-- A frame whose command byte says write, with bytes after it. -/
theorem decodeBus_write {p : Params} {c : Byte} {d : List Byte} (hc : commandRead c = false) (hd : d ≠ []) :
    decodeBus p (c :: d) = decodeWriteFrame p c d := by
  cases d with
  | nil => exact absurd rfl hd
  | cons b rest => simp [decodeBus, hc]

/-- A frame whose command byte says read, with dummy bytes after it (R126). -/
theorem decodeBus_read {p : Params} {c : Byte} {n : Nat} (hc : commandRead c = true) (hn : 1 ≤ n) :
    decodeBus p (c :: dummies p n) = decodeReadFrame p c n := by
  cases n with
  | zero => omega
  | succ n => simp [decodeBus, hc, dummies, List.replicate_succ]

/-- FW1. -/
theorem decodeBus_frameWriteSingle (p : Params) (a : Addr) (v : Byte) :
    decodeBus p (frameWriteSingle a v) = .instr (.busWriteSingle a v) := by
  rw [frameWriteSingle, decodeBus_write (by simp) (by simp)]
  simp [decodeWriteFrame]

/-- FWB: the FIFO's row goes before the general one (R129). -/
theorem decodeBus_frameWriteBurst {p : Params} {a : Addr} {d : List Byte} (hd : burstFits p d.length) :
    decodeBus p (frameWriteBurst a d) =
      .instr (if a = p.addrFifo then .busFifoWrite d else .busWriteBurst a d) := by
  obtain ⟨hpos, hmax⟩ := hd
  rw [frameWriteBurst, decodeBus_write (by simp) (List.ne_nil_of_length_pos hpos)]
  unfold decodeWriteFrame
  rw [if_pos (by simp), if_neg (Nat.not_lt.2 hmax), commandAddr_commandByte]
  split <;> rfl

/-- FR1. -/
theorem decodeBus_frameReadSingle (p : Params) (a : Addr) :
    decodeBus p (frameReadSingle p a) = .instr (.busReadSingle a) := by
  have hd : frameReadSingle p a = commandByte true false a :: dummies p 1 := rfl
  rw [hd, decodeBus_read (by simp) (Nat.le_refl 1)]
  simp [decodeReadFrame]

/-- FRB at the FIFO (R129). -/
theorem decodeBus_frameReadBurst_fifo {p : Params} {n : Nat} (hn : burstFits p n) :
    decodeBus p (frameReadBurst p p.addrFifo n) = .instr (.busFifoRead n) := by
  obtain ⟨hpos, hmax⟩ := hn
  rw [frameReadBurst, decodeBus_read (by simp) hpos]
  simp [decodeReadFrame, Nat.not_lt.2 hmax]

/-- FRB at a register that is no status register. -/
theorem decodeBus_frameReadBurst_register {p : Params} {a : Addr} {n : Nat} (hfifo : a ≠ p.addrFifo)
    (hstatus : ¬ isStatusAddr p a) (hn : burstFits p n) :
    decodeBus p (frameReadBurst p a n) = .instr (.busReadBurst a n) := by
  obtain ⟨hpos, hmax⟩ := hn
  rw [frameReadBurst, decodeBus_read (by simp) hpos, decodeReadFrame, if_pos (by simp), if_neg (Nat.not_lt.2 hmax),
    commandAddr_commandByte, if_neg hfifo, if_neg hstatus]

/-- The FIFO is no status register (D3). -/
theorem ne_addrFifo_of_isStatusAddr {p : Params} (hp : p.Distinct) {a : Addr} (ha : isStatusAddr p a) :
    a ≠ p.addrFifo := by
  obtain ⟨-, -, -, -, hfifo⟩ := hp
  rintro rfl
  exact hfifo ha

/-- FRS: the command byte's form is FRB's, and the status range tells the two apart (R130). -/
theorem decodeBus_frameReadStatus {p : Params} (hl : p.Legal) (hp : p.Distinct) {a : Addr} (ha : isStatusAddr p a) :
    decodeBus p (frameReadStatus p a) = .instr (decodeStatusRead p a) := by
  have hsize : ¬ p.fifoSize < 1 := by obtain ⟨hframe, hfifo, -⟩ := hl; omega
  have hd : frameReadStatus p a = commandByte true true a :: dummies p 1 := rfl
  rw [hd, decodeBus_read (by simp) (Nat.le_refl 1), decodeReadFrame, if_pos (by simp), if_neg hsize,
    commandAddr_commandByte, if_neg (ne_addrFifo_of_isStatusAddr hp ha), if_pos ha, if_pos rfl]

/-! ### Status registers and strobes by name (R128, R130) -/

theorem decodeStatusRead_unnamed {p : Params} {a : Addr} (h : ¬ isNamedStatus p a) :
    decodeStatusRead p a = .busReadStatus a := by
  obtain ⟨hrssi, hmarc, hrx⟩ : a ≠ p.addrRssi ∧ a ≠ p.addrMarcstate ∧ a ≠ p.addrRxbytes := by
    simpa only [isNamedStatus, not_or] using h
  rw [decodeStatusRead, if_neg hrssi, if_neg hmarc, if_neg hrx]

/-- Where the three named registers differ, the read of each has its own row (D3). -/
theorem decodeStatusRead_named {p : Params} (hp : p.Distinct) :
    decodeStatusRead p p.addrRssi = .busReadRssi ∧ decodeStatusRead p p.addrMarcstate = .busReadMarcstate ∧
    decodeStatusRead p p.addrRxbytes = .busReadRxbytes := by
  obtain ⟨-, -, hnodup, -, -⟩ := hp
  simp only [List.nodup_cons, List.mem_cons, List.not_mem_nil, or_false, not_or] at hnodup
  obtain ⟨⟨hmarc, hrx⟩, hrx', -⟩ := hnodup
  exact ⟨if_pos rfl, by simp [decodeStatusRead, Ne.symm hmarc],
    by simp [decodeStatusRead, Ne.symm hrx, Ne.symm hrx']⟩

/-- The three named registers are status registers (D3). -/
theorem isStatusAddr_of_isNamedStatus {p : Params} (hp : p.Distinct) {a : Addr} (ha : isNamedStatus p a) :
    isStatusAddr p a := by
  obtain ⟨-, -, -, hrange, -⟩ := hp
  exact hrange a (by simpa using ha)

/-- The bus command of a transport strobe (R128). -/
def Strobe.busCommand : Strobe → Instr
  | .sidle => .busSidle
  | .sftx => .busSftx
  | .sfrx => .busSfrx
  | .stx => .busStx
  | .srx => .busSrx

/-- Where the codes differ, no transport strobe has SRES's (D3). -/
theorem Strobe.code_ne_codeSres {p : Params} (hp : p.Distinct) (k : Strobe) : k.code p ≠ p.codeSres := by
  obtain ⟨hnodup, -⟩ := hp
  have hmem : k.code p ∈ [p.codeSrx, p.codeStx, p.codeSidle, p.codeSfrx, p.codeSftx] := by
    cases k <;> simp [Strobe.code]
  exact ne_of_mem_of_not_mem hmem (List.nodup_cons.1 hnodup).1

theorem decodeBus_frameStrobe_sres (p : Params) : decodeBus p (frameStrobe p.codeSres) = .instr .busSres := by
  rw [decodeBus_frameStrobe, decodeStrobeFrame, if_pos rfl]

/-- A transport strobe's code decodes to its command (D3). -/
theorem decodeBus_frameStrobe_code {p : Params} (hp : p.Distinct) (k : Strobe) :
    decodeBus p (frameStrobe (k.code p)) = .instr k.busCommand := by
  rw [decodeBus_frameStrobe, decodeStrobeFrame, if_neg (Strobe.code_ne_codeSres hp k), Machine.Strobe.ofCode_code hp]
  cases k <;> rfl

/-! ### The round trip -/

/-- Settles O2: each bus command's frame has one of R125's formats, and the format's equation gives the command back;
Distinct keeps the named rows and the strobe codes apart. -/
theorem busEncodingRoundTrips : Obligations.BusEncodingRoundTrips := by
  intro p i hl hp hwf hbus
  have hstatus : ∀ a, isStatusAddr p a → decodeBus p (frameReadStatus p a) = .instr (decodeStatusRead p a) :=
    fun _ => decodeBus_frameReadStatus hl hp
  have hnamed : ∀ a, isNamedStatus p a → isStatusAddr p a := fun _ => isStatusAddr_of_isNamedStatus hp
  have hstrobe : ∀ k, decodeBus p (frameStrobe (Strobe.code p k)) = .instr k.busCommand :=
    decodeBus_frameStrobe_code hp
  obtain ⟨hrssi, hmarc, hrx⟩ := decodeStatusRead_named hp
  cases i with
  | busWriteSingle a v => exact decodeBus_frameWriteSingle p a v
  | busWriteBurst a d =>
    obtain ⟨hfifo, hfits⟩ := hwf
    rw [encode, decodeBus_frameWriteBurst hfits, if_neg hfifo]
  | busReadSingle a => exact decodeBus_frameReadSingle p a
  | busReadStatus a =>
    obtain ⟨ha, hunnamed⟩ := hwf
    rw [encode, hstatus a ha, decodeStatusRead_unnamed hunnamed]
  | busReadBurst a n =>
    obtain ⟨hfifo, ha, hfits⟩ := hwf
    exact decodeBus_frameReadBurst_register hfifo ha hfits
  | busFifoWrite d => rw [encode, decodeBus_frameWriteBurst hwf, if_pos rfl]
  | busFifoRead n => exact decodeBus_frameReadBurst_fifo hwf
  | busReadRssi => rw [encode, hstatus _ (hnamed _ (.inl rfl)), hrssi]
  | busReadMarcstate => rw [encode, hstatus _ (hnamed _ (.inr (.inl rfl))), hmarc]
  | busReadRxbytes => rw [encode, hstatus _ (hnamed _ (.inr (.inr rfl))), hrx]
  | busSres => exact decodeBus_frameStrobe_sres p
  | busSrx => exact hstrobe .srx
  | busStx => exact hstrobe .stx
  | busSidle => exact hstrobe .sidle
  | busSfrx => exact hstrobe .sfrx
  | busSftx => exact hstrobe .sftx
  | _ => cases hbus

/-- A host operation decodes from at least its opcode. -/
theorem ne_nil_of_decodeHost {bs rest : List Byte} {i : Instr} (h : decodeHost bs = .instr i rest) : bs ≠ [] := by
  rintro rfl
  cases h

/-! ### This implementation's parameters (R7) -/

theorem Config.parameters_legal : Config.parameters.Legal := by
  have := Config.maxFrameOverTwo.isLt
  simp only [Params.Legal, Config.parameters]
  omega

theorem Config.parameters_distinct : Config.parameters.Distinct := by decide

end Sys2Proof

namespace Sys2Proof.Machine

/-! ### Where a step's instruction comes from (R5, R6, log 19) -/

variable {s : State}

/-- A queued frame is taken first. -/
theorem step_of_frame {frame : List Byte} {later : List (List Byte)} (h : s.busIn = frame :: later) :
    step s = stepFrame frame (leaveFrames later s) := by
  simp only [step, nextStep, h]

/-- Host bytes are taken when no frame is queued. -/
theorem step_of_host (hb : s.busIn = []) (hh : s.hostIn ≠ []) : step s = stepHost s := by
  obtain ⟨op, t, hcons⟩ := List.exists_cons_of_ne_nil hh
  simp only [step, nextStep, hb, hcons]

/-- With nothing issued, only time passes. -/
theorem step_of_idle (hb : s.busIn = []) (hh : s.hostIn = []) : step s = stepIdle s := by
  simp only [step, nextStep, hb, hh]

theorem stepFrame_instr {frame : List Byte} {i : Instr} (h : decodeBus s.params frame = .instr i) :
    stepFrame frame s = exec i s := by
  simp only [stepFrame, h]

theorem stepFrame_rejected {frame : List Byte} {why : Reject} (h : decodeBus s.params frame = .rejected why) :
    stepFrame frame s = .next (rejectBus s) := by
  simp only [stepFrame, h]

theorem stepHost_instr {i : Instr} {rest : List Byte} (h : decodeHost s.hostIn = .instr i rest) :
    stepHost s = exec i (leaveHost rest s) := by
  simp only [stepHost, h]

/-- A frame that spells no bus command is not admitted, unless the block is FAULTED (R51, R403). -/
theorem rejectBus_eq_refuse (hf : s.faulted = false) : rejectBus s = refuse s := by
  simp [rejectBus, admitBus, hf]

/-- Without a settle wait under way, time changes nothing. -/
theorem stepIdle_of_not_settling (h : s.phase ≠ .rstSettle) : stepIdle s = .next s := by
  simp [stepIdle, h]

/-- Time ends the settle wait that is under way (R209). -/
theorem stepIdle_of_settling (hp : s.phase = .rstSettle) (hf : s.faulted = false) :
    stepIdle s = .next (settleBody s) := by
  simp [stepIdle, hp, hf]

/-- Settles O7: the step goes to the port that has the bytes, and the decoder's answer is executed. -/
theorem stepRunsTheDecodedInstruction : Obligations.StepRunsTheDecodedInstruction := by
  refine ⟨fun s frame later i hbus hdec => ?_, fun s i rest hbus hdec => ?_⟩
  · have hdec' : decodeBus (leaveFrames later s).params frame = .instr i := hdec
    rw [step_of_frame hbus, stepFrame_instr hdec', leaveFrames]
  · rw [step_of_host hbus (ne_nil_of_decodeHost hdec), stepHost_instr hdec, leaveHost]

/-- Settles O8, by what is issued: a frame that spells no command, nothing outside the settle wait, nothing in it. -/
theorem stepWithoutAnInstruction : Obligations.StepWithoutAnInstruction := by
  refine ⟨fun s frame later why hf hbus hdec => ?_, fun s hbus hhost hphase => ?_,
    fun s hbus hhost hphase hf => ?_⟩
  · have hdec' : decodeBus (leaveFrames later s).params frame = .rejected why := hdec
    rw [step_of_frame hbus, stepFrame_rejected hdec', rejectBus_eq_refuse (by simpa using hf), refuse, leaveFrames]
  · rw [step_of_idle hbus hhost, stepIdle_of_not_settling hphase]
  · rw [step_of_idle hbus hhost, stepIdle_of_settling hphase hf]
    rfl

/-! ### The state at reset (R7, R47) -/

/-- The invariant holds at power-on, for all legal parameters and every environment whose chip is in order. -/
theorem blockInv_powerOn {p : Params} {env : Env} (hp : p.Legal) (henv : env.chip.Ok p) (program : List Byte) :
    BlockInv (State.powerOn p env program) := by
  obtain ⟨hwf, hconfig, htx, hrx⟩ := henv
  exact ⟨hp, rfl, .inl ⟨rfl, rfl⟩, nofun, List.length_replicate, List.length_replicate, Nat.zero_le _,
    by simp [State.powerOn], hwf, hconfig, htx, hrx⟩

/-- Settles O10: reset is power-on with legal parameters and a chip at its own power-on; R7's values are the
parameters' defaults. -/
theorem invariantAtReset : Obligations.InvariantAtReset := by
  refine ⟨blockInv_powerOn Config.parameters_legal Chip.powerOn_ok [], Config.parameters_legal,
    Config.parameters_distinct, ?_⟩
  and_intros <;> rfl

end Sys2Proof.Machine
end

section
/-! PROOFS. Admission: what `exec` asks of each instruction before its body, as one table for the host operations and
one for the bus commands, and the statements that follow from the tables (R34, R35, R36, R51, R404). -/

namespace Sys2Proof.Machine

/-! ### The two tables -/

/-- What R404 asks of a host operation, and what the operation does once it executes. -/
structure Admission where
  refused : Bool
  arg : Option ArgOutcome
  gate : Gate
  body : State → State

/-- STROBE's entry, by the strobe that its code names (R203). -/
def strobeAdmission : Option Strobe → Admission
  | some c => ⟨false, none, .strobe c, strobeBody c⟩
  | none => ⟨true, none, .ungated, id⟩

/-- The host operations; a bus command has no entry here and stands as refused. -/
def admission (p : Params) : Instr → Admission
  | .wreg a v => ⟨!isConfigAddr p a, none, .bus, writeBody (frameWriteSingle a v)⟩
  | .wburst a d => ⟨!burstAddrOk p a d.length, burstArg p d.length, .bus, writeBody (frameWriteBurst a d)⟩
  | .rreg a => ⟨!isConfigAddr p a, none, .bus, readBody (frameReadSingle p a)⟩
  | .rstatus a => ⟨!isStatusRegister p a, none, .bus, readBody (frameReadStatus p a)⟩
  | .rburst a n => ⟨!burstAddrOk p a n.toNat, burstArg p n.toNat, .bus, readBody (frameReadBurst p a n.toNat)⟩
  | .strobe code => strobeAdmission (Strobe.ofCode p code)
  | .reset => ⟨false, none, .ungated, resetBody⟩
  | .configure la image => ⟨!imageOk p image, none, .bus, configureBody la image⟩
  | .buildFrame dest d =>
    ⟨false, sizeArg p.maxFrame d, .ungated, fun s => raise .ok .none .none (storeFrame (frameOf dest d) s)⟩
  | .parseFrame r => ⟨false, parseArg r, .ungated, fun s => raise .ok .none .none (storeParsed r s)⟩
  | .send dest d => ⟨false, sizeArg p.maxFrame d, .link, sendBody dest d⟩
  | .receive => ⟨false, none, .link, receiveBody⟩
  | .signalStrength => ⟨false, none, .link, signalBody⟩
  | .rssiDecode v => ⟨false, none, .ungated, fun s => raise .ok .none .none (storeDbm (rssiDbm s.params v) s)⟩
  | .classify d =>
    ⟨false, none, .ungated, fun s => raise .ok .none .none (storeClass (classOf s.params d.toInt) s)⟩
  | .busWriteSingle .. | .busWriteBurst .. | .busReadSingle .. | .busReadStatus .. | .busReadBurst ..
  | .busFifoWrite .. | .busFifoRead .. | .busReadRssi | .busReadMarcstate | .busReadRxbytes
  | .busSres | .busSrx | .busStx | .busSidle | .busSfrx | .busSftx => ⟨true, none, .ungated, id⟩

/-- A host operation is admitted as its entry says. -/
theorem exec_host {i : Instr} (h : i.isBus = false) (s : State) :
    exec i s = .next (admitOp (admission s.params i).refused (admission s.params i).arg (admission s.params i).gate s
      (admission s.params i).body) := by
  cases i with
  | strobe code =>
    rw [exec, execStrobe, admission]
    cases Strobe.ofCode s.params code <;> rfl
  | wreg | wburst | rreg | rstatus | rburst | reset | configure | buildFrame | parseFrame | send | receive
  | signalStrength | rssiDecode | classify => rfl
  | _ => cases h

/-- What `admitBus` asks of a bus command, and the transaction it performs. -/
structure Command where
  ok : Bool
  needsInit : Bool
  body : State → State

/-- A write command: its transaction, after a RESET. -/
def Command.write (ok : Bool) (frame : List Byte) : Command := ⟨ok, true, fun s => xferThen frame s fun _ s => s⟩

/-- A read command: its transaction, whose data bytes are kept. -/
def Command.read (ok : Bool) (frame : List Byte) : Command :=
  ⟨ok, true, fun s => xferThen frame s fun miso s => storeBusData (miso.drop 1) s⟩

/-- A strobe command. -/
def Command.strobe (c : Strobe) : Command := ⟨true, true, fun s => strobeThen c s fun s => s⟩

/-- The bus commands; a host operation has no entry here and stands as refused. -/
def command (p : Params) : Instr → Command
  | .busWriteSingle a v => .write (isConfigAddr p a) (frameWriteSingle a v)
  | .busWriteBurst a d => .write (busBurstOk p a d.length) (frameWriteBurst a d)
  | .busFifoWrite d => .write (busBurstOk p p.addrFifo d.length) (frameWriteBurst p.addrFifo d)
  | .busReadSingle a => .read (isConfigAddr p a) (frameReadSingle p a)
  | .busReadStatus a => .read (isStatusRegister p a) (frameReadStatus p a)
  | .busReadBurst a n => .read (busBurstOk p a n) (frameReadBurst p a n)
  | .busFifoRead n => .read (busBurstOk p p.addrFifo n) (frameReadBurst p p.addrFifo n)
  | .busReadRssi => .read true (frameReadStatus p p.addrRssi)
  | .busReadMarcstate => .read true (frameReadStatus p p.addrMarcstate)
  | .busReadRxbytes => .read true (frameReadStatus p p.addrRxbytes)
  | .busSres => ⟨true, false, fun s => sresThen (setBusy s) (atPhase .rstSettle)⟩
  | .busSrx => .strobe .srx
  | .busStx => .strobe .stx
  | .busSidle => .strobe .sidle
  | .busSfrx => .strobe .sfrx
  | .busSftx => .strobe .sftx
  | .wreg .. | .wburst .. | .rreg .. | .rstatus .. | .rburst .. | .strobe .. | .reset | .configure ..
  | .buildFrame .. | .parseFrame .. | .send .. | .receive | .signalStrength | .rssiDecode .. | .classify .. =>
    ⟨false, true, id⟩

/-- A bus command is admitted as its entry says. -/
theorem exec_bus {i : Instr} (h : i.isBus = true) (s : State) :
    exec i s = .next (admitBus (command s.params i).ok (command s.params i).needsInit s (command s.params i).body) := by
  cases i with
  | busWriteSingle | busWriteBurst | busReadSingle | busReadStatus | busReadBurst | busFifoWrite | busFifoRead
  | busReadRssi | busReadMarcstate | busReadRxbytes | busSres | busSrx | busStx | busSidle | busSfrx | busSftx => rfl
  | _ => cases h

/-! ### FAULTED and BUSY (R36, R51) -/

theorem admitOp_faulted {refused : Bool} {arg : Option ArgOutcome} {g : Gate} {s : State} {body : State → State}
    (h : s.faulted = true) : admitOp refused arg g s body = s := by
  simp [admitOp, h]

theorem admitOp_busy {refused : Bool} {arg : Option ArgOutcome} {g : Gate} {s : State} {body : State → State}
    (hf : s.faulted = false) (hb : s.busy = true) : admitOp refused arg g s body = modelFault .busy s := by
  simp [admitOp, hf, hb]

theorem admitBus_faulted {ok needsInit : Bool} {s : State} {body : State → State} (h : s.faulted = true) :
    admitBus ok needsInit s body = s := by
  simp [admitBus, h]

/-- Settles O12: both admissions ask for FAULTED first. -/
theorem faultedBlockDoesNothing : Obligations.FaultedBlockDoesNothing := by
  intro i s hf
  cases hb : i.isBus with
  | false => rw [exec_host hb, admitOp_faulted hf]
  | true => rw [exec_bus hb, admitBus_faulted hf]

/-- Settles O13: a host operation's admission asks for BUSY before it looks at the operands. -/
theorem busyBlockFaults : Obligations.BusyBlockFaults := by
  intro i s hi hf hb
  rw [exec_host hi, admitOp_busy hf hb, modelFault]

/-! ### Operands and gates (R34, R35, R404) -/

/-- The operations a host may see refused are those whose operands are not admitted (R403). -/
theorem admission_refused_eq_false {p : Params} {i : Instr} (hi : i.isBus = false) (h : Admitted p i) :
    (admission p i).refused = false := by
  cases i with
  | wreg a v => simpa [admission] using show ConfigRange p a from h
  | rreg a => simpa [admission] using show ConfigRange p a from h
  | rstatus a => simpa [admission] using show StatusRange p a from h
  | wburst a d => rw [admission, burstAddrOk_iff.2 h]; rfl
  | rburst a n => rw [admission, burstAddrOk_iff.2 h]; rfl
  | configure la image => rw [admission, imageOk_iff.2 h]; rfl
  | strobe code =>
    cases hc : Strobe.ofCode p code with
    | none => exact absurd h (Strobe.ofCode_eq_none.1 hc)
    | some c => rw [admission, hc]; rfl
  | reset | buildFrame | parseFrame | send | receive | signalStrength | rssiDecode | classify => rfl
  | _ => cases hi

/-- Operands without an argument outcome (R404 item 4). -/
theorem admission_arg_eq_none {s : State} {i : Instr} (h : ¬ ArgumentsReported s i) :
    (admission s.params i).arg = none := by
  cases i with
  | wburst a d => exact if_neg (mt burstLengthBad_iff.1 h)
  | rburst a n => exact if_neg (mt burstLengthBad_iff.1 h)
  | buildFrame dest d => exact if_neg (mt payloadTooLarge_iff.1 h)
  | send dest d => exact if_neg (mt payloadTooLarge_iff.1 h)
  | parseFrame r =>
    obtain ⟨hlen, -⟩ : ¬ r.length < 2 ∧ _ := not_or.1 h
    have hne : r.length ≠ 0 := by omega
    exact (if_neg hne).trans (if_neg (mt frameMalformed_iff.1 h))
  | strobe code => rw [admission]; cases Strobe.ofCode s.params code <;> rfl
  | _ => rfl

/-- Before a RESET the gate of every operation that drives the bus is shut (R34). -/
theorem gateFault_notInitialised {s : State} {i : Instr} (hd : DrivesBus i) (ha : Admitted s.params i)
    (h : s.initialised = false) : gateFault (admission s.params i).gate s = some .notInitialised := by
  cases i with
  | strobe code =>
    cases hc : Strobe.ofCode s.params code with
    | none => exact absurd ha (Strobe.ofCode_eq_none.1 hc)
    | some c => simp [admission, hc, strobeAdmission, gateFault, h]
  | wreg | wburst | rreg | rstatus | rburst | configure | send | receive | signalStrength =>
    simp [admission, gateFault, h]
  | _ => cases hd

/-- Between RESET and CONFIGURE the gate of every link operation is shut (R35). -/
theorem gateFault_notConfigured {s : State} {i : Instr} (hn : NeedsConfiguration i) (h : s.initialised = true)
    (hc : s.configured = false) : gateFault (admission s.params i).gate s = some .notConfigured := by
  cases i with
  | send | receive | signalStrength => simp [admission, gateFault, h, hc]
  | _ => cases hn

theorem DrivesBus.isBus_eq_false {i : Instr} (h : DrivesBus i) : i.isBus = false := by
  cases i with
  | wreg | wburst | rreg | rstatus | rburst | strobe | configure | send | receive | signalStrength => rfl
  | _ => cases h

theorem NeedsConfiguration.drivesBus {i : Instr} (h : NeedsConfiguration i) : DrivesBus i := by
  cases i with
  | send | receive | signalStrength => trivial
  | _ => cases h

/-- Every operand of a link operation is admitted. -/
theorem NeedsConfiguration.admitted {i : Instr} (h : NeedsConfiguration i) (p : Params) : Admitted p i := by
  cases i with
  | send | receive | signalStrength => trivial
  | _ => cases h

/-- An operation that no operand stops meets its gate. -/
theorem exec_gate {s : State} {i : Instr} {f : Fault} (hs : HostReady s) (hi : i.isBus = false)
    (ha : Admitted s.params i) (hr : ¬ ArgumentsReported s i)
    (hg : gateFault (admission s.params i).gate s = some f) : exec i s = .next (modelFault f s) := by
  rw [exec_host hi, admission_refused_eq_false hi ha, admission_arg_eq_none hr, admitOp_gate hs hg]

/-- An admitted bus command is one the block sends, and only SRES is sent before a RESET (R34, log 13). -/
theorem command_of_admitted {p : Params} {i : Instr} (hi : i.isBus = true) (hs : i ≠ .busSres) (h : Admitted p i) :
    (command p i).ok = true ∧ (command p i).needsInit = true := by
  cases i with
  | busWriteSingle => exact ⟨isConfigAddr_iff.2 h, rfl⟩
  | busReadSingle => exact ⟨isConfigAddr_iff.2 h, rfl⟩
  | busReadStatus => exact ⟨isStatusRegister_iff.2 h, rfl⟩
  | busWriteBurst => exact ⟨busBurstOk_iff.2 h, rfl⟩
  | busReadBurst => exact ⟨busBurstOk_iff.2 h, rfl⟩
  | busFifoWrite => exact ⟨busBurstOk_fifo.2 h, rfl⟩
  | busFifoRead => exact ⟨busBurstOk_fifo.2 h, rfl⟩
  | busSres => exact absurd rfl hs
  | busReadRssi | busReadMarcstate | busReadRxbytes | busSrx | busStx | busSidle | busSfrx | busSftx => exact ⟨rfl, rfl⟩
  | _ => cases hi

theorem admitBus_uninitialised {s : State} {body : State → State} (hf : s.faulted = false) (hp : s.phase ≠ .rstSettle)
    (h : s.initialised = false) : admitBus true true s body = modelFault .notInitialised s := by
  simp [admitBus, hf, hp, h]

/-- Settles O15: no operand stops the operation, so its gate decides; a bus command asks for INITIALISED itself. -/
theorem gatedOperationsFault : Obligations.GatedOperationsFault := by
  refine ⟨fun i s hs hd ha hr h => ?_, fun i s hs hn hr h hc => ?_, fun i s hf hi hne ha hp h => ?_⟩
  · exact exec_gate hs hd.isBus_eq_false ha hr (gateFault_notInitialised hd ha h)
  · exact exec_gate hs hn.drivesBus.isBus_eq_false (hn.admitted _) hr (gateFault_notConfigured hn h hc)
  · obtain ⟨hok, hinit⟩ := command_of_admitted hi hne ha
    rw [exec_bus hi, hok, hinit, admitBus_uninitialised hf hp h, modelFault]

end Sys2Proof.Machine
end

section
/-! PROOFS. The invariant of the block: every step keeps `BlockInv` (R32 to R41, R51, R80, R100). -/

namespace Sys2Proof.Machine

/-! ### The invariant while an operation runs -/

/-- `BlockInv` without the sequencer's rest: what holds also between the transactions of an operation. -/
structure RunInv (s : State) : Prop where
  legal : s.params.Legal
  cs : s.cs = true
  configured : s.configured = true → s.initialised = true ∧ s.written.localAddr = true
  rxBuf : s.rxBuf.length = s.params.rxBufLen
  txFrame : s.txFrame.length = s.params.maxFrame
  txFrameLen : s.txFrameLen ≤ s.params.maxFrame
  fault : s.faulted = true ↔ s.faultCause ≠ none
  chip : s.env.chip.Ok s.params

/-- The sequencer is at rest, or RESET's settle wait is under way (R36, R37, log 12). -/
def AtRest (s : State) : Prop := s.busy = false ∧ s.phase = .none ∨ s.busy = true ∧ s.phase = .rstSettle

theorem blockInv_iff {s : State} : BlockInv s ↔ RunInv s ∧ AtRest s := by
  constructor
  · rintro ⟨hlegal, hcs, hrest, hconf, hrx, htx, hlen, hfault, hwf, hcfg, htf, hrf⟩
    exact ⟨⟨hlegal, hcs, hconf, hrx, htx, hlen, hfault, hwf, hcfg, htf, hrf⟩, hrest⟩
  · rintro ⟨⟨hlegal, hcs, hconf, hrx, htx, hlen, hfault, hwf, hcfg, htf, hrf⟩, hrest⟩
    exact ⟨hlegal, hcs, hrest, hconf, hrx, htx, hlen, hfault, hwf, hcfg, htf, hrf⟩

theorem BlockInv.run {s : State} (h : BlockInv s) : RunInv s := (blockInv_iff.1 h).1

theorem BlockInv.atRest {s : State} (h : BlockInv s) : AtRest s := (blockInv_iff.1 h).2

namespace RunInv
variable {s : State}

/-! ### The updates that keep it -/

theorem atPhase (h : RunInv s) (p : Phase) : RunInv (atPhase p s) := { h with }

theorem raise (h : RunInv s) (o : OutcomeCode) (p : Phase) (sub : SubReason) : RunInv (raise o p sub s) :=
  { h with }

theorem refuse (h : RunInv s) : RunInv (refuse s) := { h with }

theorem modelFault (h : RunInv s) (f : Fault) : RunInv (modelFault f s) :=
  { h with fault := by simp }

theorem clearCounters (h : RunInv s) : RunInv (clearCounters s) := { h with }

theorem beginOp (h : RunInv s) : RunInv (beginOp s) := { h with }

theorem setBusy (h : RunInv s) : RunInv (setBusy s) := { h with }

theorem setPolls (h : RunInv s) (n : Nat) : RunInv (setPolls n s) := { h with }

theorem setRetries (h : RunInv s) (n : Nat) : RunInv (setRetries n s) := { h with }

theorem recordStrobe (h : RunInv s) (c : Strobe) : RunInv (recordStrobe c s) :=
  { h with }

theorem csPulse (h : RunInv s) : RunInv (csPulse s) := { h with cs := rfl }

theorem waitSettle (h : RunInv s) : RunInv (waitSettle s) :=
  { h with chip := Env.settled_ok h.chip }

theorem xfer (h : RunInv s) (mosi : List Byte) : RunInv (xfer mosi s).2 :=
  { h with cs := rfl, chip := Env.busAnswer_ok h.chip mosi }

theorem sampleLine (h : RunInv s) : RunInv (sampleLine s).2 :=
  { h with chip := Env.lineAnswer_ok h.chip }

theorem markReset (h : RunInv s) : RunInv (markReset s) := { h with configured := nofun }

theorem clearInitialised (h : RunInv s) : RunInv (clearInitialised s) := { h with configured := nofun }

theorem clearConfigured (h : RunInv s) : RunInv (clearConfigured s) := { h with configured := nofun }

theorem setLocalAddr (h : RunInv s) (hi : s.initialised = true) (a : Byte) : RunInv (setLocalAddr a s) :=
  { h with configured := fun _ => ⟨hi, rfl⟩ }

theorem storeRead (h : RunInv s) (d : List Byte) : RunInv (storeRead d s) := { h with }

theorem storeBusData (h : RunInv s) (d : List Byte) : RunInv (storeBusData d s) :=
  { h with }

theorem storeParsed (h : RunInv s) (r : List Byte) : RunInv (storeParsed r s) :=
  { h with }

theorem storeDbm (h : RunInv s) (d : Int) : RunInv (storeDbm d s) := { h with }

theorem storeClass (h : RunInv s) (c : LqClass) : RunInv (storeClass c s) := { h with }

theorem storeRaw (h : RunInv s) (v : Byte) : RunInv (storeRaw v s) := { h with }

/-- A frame within MAX_FRAME fits TX_FRAME (R80). -/
theorem storeFrame (h : RunInv s) {f : List Byte} (hf : f.length ≤ s.params.maxFrame) : RunInv (storeFrame f s) :=
  { h with txFrame := by simp [h.txFrame]; omega, txFrameLen := hf }

theorem drawReceive (h : RunInv s) : RunInv (drawReceive s) := { h with rxBuf := by simp }

theorem zeroRxBuf (h : RunInv s) : RunInv (zeroRxBuf s) := { h with rxBuf := by simp }

/-- The payload of an image of at most RX_BUF_LEN bytes fits RX_BUF (R40). -/
theorem deliver (h : RunInv s) {r : List Byte} (hr : r.length ≤ s.params.rxBufLen) : RunInv (deliver r s) := by
  refine { h with rxBuf := ?_ }
  have hp : (payloadOf r (byteAt r 0).toNat).length ≤ r.length := by
    simp only [payloadOf, List.length_take, List.length_drop]
    omega
  simp only [deliver_rxBuf, List.length_append, List.length_drop, h.rxBuf]
  show _ = s.params.rxBufLen
  omega

end RunInv

namespace BlockInv
variable {s : State}

/-- An operation that ends, ends at rest (R405). -/
theorem of_raise (h : RunInv s) (o : OutcomeCode) (p : Phase) (sub : SubReason) : BlockInv (raise o p sub s) :=
  blockInv_iff.2 ⟨h.raise o p sub, .inl ⟨rfl, rfl⟩⟩

theorem modelFault (h : BlockInv s) (f : Fault) : BlockInv (modelFault f s) :=
  blockInv_iff.2 ⟨h.run.modelFault f, h.atRest⟩

theorem refuse (h : BlockInv s) : BlockInv (refuse s) := blockInv_iff.2 ⟨h.run.refuse, h.atRest⟩

theorem leaveHost (h : BlockInv s) (rest : List Byte) : BlockInv (leaveHost rest s) := h

theorem leaveFrames (h : BlockInv s) (later : List (List Byte)) : BlockInv (leaveFrames later s) := h

theorem xfer (h : BlockInv s) (mosi : List Byte) : BlockInv (xfer mosi s).2 :=
  blockInv_iff.2 ⟨h.run.xfer mosi, h.atRest⟩

end BlockInv

/-! ### Host operations -/

/-- What an operation that began in s₀ keeps up to its end: the invariant, and what its last steps rest on. -/
def Running (s₀ s : State) : Prop :=
  RunInv s ∧ s.params = s₀.params ∧ s.initialised = s₀.initialised ∧ s.written.localAddr = s₀.written.localAddr

theorem samples_running (s₀ : State) : Samples (Running s₀) BlockInv where
  phase p _ h := ⟨h.1.atPhase p, h.2⟩
  answer mosi _ h _ := ⟨h.1.xfer mosi, h.2⟩
  short mosi _ h _ := .of_raise (h.1.xfer mosi) _ _ _
  ending o p sub _ h _ := .of_raise h.1 o p sub
  mode c _ h := ⟨h.1.recordStrobe c, h.2⟩
  line _ h := ⟨h.1.sampleLine, h.2⟩
  polls n _ h := ⟨h.1.setPolls n, h.2⟩
  retries n _ h := ⟨h.1.setRetries n, h.2⟩

theorem RunInv.running {s : State} (h : RunInv s) : Running s s := ⟨h, rfl, rfl, rfl⟩

/-- Every RESET ends at rest: its SRES is short, or the settle wait completes (R209). -/
theorem blockInv_settleBody {s : State} (h : RunInv s) : BlockInv (settleBody s) :=
  .of_raise (h.atPhase _).waitSettle.markReset _ _ _

theorem blockInv_sresThen {s : State} {k : State → State} (h : RunInv s)
    (hk : ∀ t, RunInv t → t.busy = s.busy → BlockInv (k t)) : BlockInv (sresThen s k) :=
  xferOr_cases (fun _ => .of_raise ((h.atPhase _).xfer _).clearInitialised _ _ _)
    fun _ => hk _ ((h.atPhase _).xfer _) rfl

theorem blockInv_configureBody {s : State} (h : RunInv s) (hi : s.initialised = true) (la : Byte)
    (image : List (Addr × Byte)) : BlockInv (configureBody la image s) := by
  refine (samples_running (clearConfigured s)).configWrites 0 image h.clearConfigured.running fun t ht => ?_
  obtain ⟨hrun, -, hinit, -⟩ := ht
  exact .of_raise (hrun.setLocalAddr (hinit.trans hi) la) _ _ _

theorem blockInv_sendBody {s : State} (h : RunInv s) {dest : Byte} {d : List Byte}
    (hd : d.length + 2 ≤ s.params.maxFrame) : BlockInv (sendBody dest d s) :=
  (samples_running _).sendBody (RunInv.storeFrame h (f := frameOf dest d) hd).running

/-- The address comparison never meets an unwritten LOCAL_ADDR, since the block is configured (R32). -/
theorem blockInv_receiveBody {s : State} (h : RunInv s) (hc : s.configured = true) : BlockInv (receiveBody s) := by
  obtain ⟨-, hla⟩ := h.configured hc
  exact (samples_running s).receiveBody (size := s.params.rxBufLen)
    (fun t ht => ⟨ht.1.drawReceive, ht.2⟩) (fun t ht => ⟨ht.1.zeroRxBuf, ht.2⟩)
    (fun t ht => congrArg Params.rxBufLen ht.2.1)
    (fun r t hr ht => ⟨ht.1.deliver (hr.trans_eq (congrArg Params.rxBufLen ht.2.1.symm)), ht.2⟩)
    (fun t ht hw => absurd (hw.symm.trans (ht.2.2.2.trans hla)) Bool.false_ne_true)
    h.running

/-- The gates that let an operation run (R34, R35). -/
theorem initialised_of_gate {s : State} (h : gateFault .bus s = none) : s.initialised = true := by
  cases hi : s.initialised with
  | true => rfl
  | false => simp [gateFault, hi] at h

theorem configured_of_gate {s : State} (h : gateFault .link s = none) : s.configured = true := by
  cases hc : s.configured with
  | true => rfl
  | false => cases hi : s.initialised <;> simp [gateFault, hi, hc] at h

theorem length_le_of_sizeArg {m : Nat} {d : List Byte} (h : sizeArg m d = none) : d.length + 2 ≤ m := by
  cases hl : payloadTooLarge m d with
  | true => simp [sizeArg, hl] at h
  | false => simpa using mt payloadTooLarge_iff.2 (by simp [hl])

/-- Every host operation that executes keeps the invariant. -/
theorem blockInv_body {i : Instr} {p : Params} {s : State} (h : RunInv s) (hp : s.params = p)
    (harg : (admission p i).arg = none) (hg : gateFault (admission p i).gate s = none)
    (hr : (admission p i).refused = false) : BlockInv ((admission p i).body s) := by
  have keeps := (samples_running s).toTransacts
  have stores : ∀ d t, Running s t → Running s (storeRead d t) := fun d t ht => ⟨ht.1.storeRead d, ht.2⟩
  cases i with
  | wreg | wburst => exact keeps.writeBody h.running
  | rreg | rstatus | rburst => exact keeps.readBody stores h.running
  | strobe code =>
    rw [admission] at hr ⊢
    cases hc : Strobe.ofCode p code with
    | none => rw [hc] at hr; cases hr
    | some c => exact (samples_running s).strobeBody h.running
  | reset => exact blockInv_sresThen (h.atPhase _).csPulse fun t ht _ => blockInv_settleBody ht
  | configure la image => exact blockInv_configureBody h (initialised_of_gate hg) la image
  | buildFrame dest d => exact .of_raise (h.storeFrame (f := frameOf dest d) (hp ▸ length_le_of_sizeArg harg)) _ _ _
  | parseFrame r => exact .of_raise (h.storeParsed r) _ _ _
  | send dest d => exact blockInv_sendBody h (hp ▸ length_le_of_sizeArg harg)
  | receive => exact blockInv_receiveBody h (configured_of_gate hg)
  | signalStrength =>
    exact keeps.signalBody (fun v t ht => ⟨ht.1.storeRaw v, ht.2⟩) (fun d t ht => ⟨ht.1.storeDbm d, ht.2⟩)
      (fun c t ht => ⟨ht.1.storeClass c, ht.2⟩) h.running
  | rssiDecode v => exact .of_raise (h.storeDbm _) _ _ _
  | classify d => exact .of_raise (h.storeClass _) _ _ _
  | _ => cases hr

theorem blockInv_admitOp {i : Instr} {s : State} (h : BlockInv s) :
    BlockInv (admitOp (admission s.params i).refused (admission s.params i).arg (admission s.params i).gate s
      (admission s.params i).body) :=
  admitOp_cases (fun _ => h) (fun _ _ => h.modelFault _) (fun _ _ => h.refuse)
    (fun a _ _ _ => .of_raise h.run.clearCounters a.outcome a.phase a.sub) (fun f _ _ _ _ => h.modelFault f)
    fun _ hr harg hg => blockInv_body h.run.beginOp rfl harg hg hr

/-- Bytes that spell no operation are refused, if the block is neither FAULTED nor BUSY. -/
theorem blockInv_rejectHost {s : State} (h : BlockInv s) : BlockInv (rejectHost s) :=
  admitOp_cases (fun _ => h) (fun _ _ => h.modelFault _) (fun _ _ => h.refuse) (fun _ _ hr => nomatch hr)
    (fun _ _ hr => nomatch hr) (fun _ hr => nomatch hr)

/-! ### Bus commands -/

/-- A transaction in a phase of rest, which leaves the sequencer as it is when it is complete. -/
theorem blockInv_xferThen {mosi : List Byte} {s : State} {k : List Byte → State → State} (h : BlockInv s)
    (hk : ∀ miso t, BlockInv t → BlockInv (k miso t)) : BlockInv (xferThen mosi s k) :=
  xferOr_cases (fun _ => .of_raise (h.run.xfer mosi) _ _ _) fun _ => hk _ _ (h.xfer mosi)

/-- Every bus command that is performed keeps the invariant. -/
theorem blockInv_command {i : Instr} {p : Params} {s : State} (h : BlockInv s) (hok : (command p i).ok = true) :
    BlockInv ((command p i).body s) := by
  have strobe : ∀ c, BlockInv ((Command.strobe c).body s) := fun c =>
    blockInv_xferThen h fun _ t ht => blockInv_iff.2 ⟨ht.run.recordStrobe c, ht.atRest⟩
  cases i with
  | busWriteSingle | busWriteBurst | busFifoWrite => exact blockInv_xferThen h fun _ _ ht => ht
  | busReadSingle | busReadStatus | busReadBurst | busFifoRead | busReadRssi | busReadMarcstate | busReadRxbytes =>
    exact blockInv_xferThen h fun _ t ht => blockInv_iff.2 ⟨ht.run.storeBusData _, ht.atRest⟩
  | busSres =>
    exact blockInv_sresThen h.run.setBusy fun t ht hb => blockInv_iff.2 ⟨ht.atPhase _, .inr ⟨hb, rfl⟩⟩
  | busSrx | busStx | busSidle | busSfrx | busSftx => exact strobe _
  | _ => cases hok

theorem blockInv_admitBus {ok needsInit : Bool} {s : State} {body : State → State} (h : BlockInv s)
    (hbody : ok = true → BlockInv (body s)) : BlockInv (admitBus ok needsInit s body) :=
  admitBus_cases (fun _ => h) (fun _ _ => h.refuse) (fun _ _ _ => h.modelFault _) (fun _ _ _ _ _ => h.modelFault _)
    fun _ hok _ _ => hbody hok

/-! ### Steps -/

theorem blockInv_exec {i : Instr} {s t : State} (h : BlockInv s) (ht : exec i s = .next t) : BlockInv t := by
  cases hb : i.isBus with
  | false =>
    rw [exec_host hb] at ht
    cases ht
    exact blockInv_admitOp h
  | true =>
    rw [exec_bus hb] at ht
    cases ht
    exact blockInv_admitBus h (blockInv_command h)

theorem blockInv_stepFrame {frame : List Byte} {s t : State} (h : BlockInv s) (ht : stepFrame frame s = .next t) :
    BlockInv t := by
  unfold stepFrame at ht
  split at ht
  · exact blockInv_exec h ht
  · cases ht
    exact blockInv_admitBus h nofun

theorem blockInv_stepHost {s t : State} (h : BlockInv s) (ht : stepHost s = .next t) : BlockInv t := by
  unfold stepHost at ht
  split at ht
  · exact blockInv_exec (h.leaveHost _) ht
  · cases ht
    exact blockInv_rejectHost (h.leaveHost _)

theorem blockInv_stepIdle {s t : State} (h : BlockInv s) (ht : stepIdle s = .next t) : BlockInv t := by
  cases ht
  split
  · exact blockInv_settleBody h.run
  · exact h

/-- Settles O11: a step is a frame, a host operation or the passing of time, and each keeps the invariant; inside an
operation `Running` holds, which gives it back at the operation's end. -/
theorem invariantKept : Obligations.InvariantKept := by
  intro s t h ht
  cases hb : s.busIn with
  | cons frame later =>
    rw [step_of_frame hb] at ht
    exact blockInv_stepFrame (h.leaveFrames later) ht
  | nil =>
    by_cases hh : s.hostIn = []
    · rw [step_of_idle hb hh] at ht
      exact blockInv_stepIdle h ht
    · rw [step_of_host hb hh] at ht
      exact blockInv_stepHost h ht

end Sys2Proof.Machine
end

section
/-! PROOFS. PARSE_FRAME's outcomes (42_framing.md). -/

namespace Sys2Proof.Machine

/-! ### PARSE_FRAME (R244 to R246) -/

/-- PARSE_FRAME where its bytes are no frame (R244). -/
theorem exec_parseFrame_argument {r : List Byte} {a : ArgOutcome} {s : State} (hs : HostReady s)
    (h : parseArg r = some a) :
    exec (.parseFrame r) s = .next (raise a.outcome a.phase a.sub (clearCounters s)) := by
  rw [exec, execParseFrame, h, admitOp_argument hs]

/-- PARSE_FRAME where its bytes hold a frame (R244). -/
theorem exec_parseFrame_frame {r : List Byte} {s : State} (hs : HostReady s) (h : parseArg r = none) :
    exec (.parseFrame r) s = .next (raise .ok .none .none (storeParsed r (beginOp s))) := by
  rw [exec, execParseFrame, h, admitOp_run hs (gateFault_ungated s)]

theorem parseArg_malformed {r : List Byte} (hne : r.length ≠ 0) (h : frameMalformed r = true) :
    parseArg r = some ⟨.malformed, .none, .malformedFrame⟩ := by
  rw [parseArg, if_neg hne, if_pos h]

theorem parseArg_frame {r : List Byte} (hne : r.length ≠ 0) (h : ¬ frameMalformed r = true) : parseArg r = none := by
  rw [parseArg, if_neg hne, if_neg h]

/-- The payload ends where the length byte says, whatever follows (R241, R245). -/
theorem payloadOf_append {l a : Byte} {d later : List Byte} (h : l.toNat = d.length + 1) :
    payloadOf (l :: a :: (d ++ later)) l.toNat = d := by
  simp [payloadOf, h]

/-- Settles O29: the four clauses are the cases of `parseArg`, and a frame's payload is what its length byte counts. -/
theorem parseFrameCompletes : Obligations.ParseFrameCompletes := by
  intro r s hs
  refine ⟨?_, ?_, ?_, ?_⟩
  · rintro rfl
    exact exec_parseFrame_argument (a := ⟨.noData, .none, .none⟩) hs rfl
  · rintro l rfl
    exact exec_parseFrame_argument hs (parseArg_malformed (by simp) (frameMalformed_iff.2 (.inl (by simp))))
  · rintro l a tail rfl hl
    refine exec_parseFrame_argument hs (parseArg_malformed (by simp) (frameMalformed_iff.2 (.inr ?_)))
    rcases hl with rfl | hl
    · exact .inl rfl
    · exact .inr (by simpa [byteAt] using hl)
  · rintro l a d later rfl hl
    have hframe : ¬ frameMalformed (l :: a :: (d ++ later)) = true := by
      rw [frameMalformed_iff]
      simp [byteAt, hl]
    rw [exec_parseFrame_frame hs (parseArg_frame (by simp) hframe), storeParsed]
    simp only [byteAt, List.getD_cons_zero, List.getD_cons_succ, payloadOf_append hl]
    rfl

end Sys2Proof.Machine
end

section
/-! PROOFS. RECEIVE on settled answers (43_link.md): where the operation stands after each part of it, and how it
ends. -/

namespace Sys2Proof.Machine

/-! ### Where RECEIVE stands -/

/-- A RECEIVE that began in s stands, with nothing delivered, in t: LINK_MODE is RX, the trace is `tr`, RX_BUF holds
`buf`, and the answers `rest` and `lines` are left. -/
structure InReceive (s : State) (lines : List Bool) (retries : Nat) (buf : List Byte) (tr : List Event)
    (rest : List (List Byte)) (t : State) : Prop where
  linkMode : t.linkMode = .rx
  cs : t.cs = true
  params : t.params = s.params
  header : HeaderDrawn s.rxDraws t
  rxBuf : t.rxBuf = buf
  settled : Settled t rest lines
  trace : t.trace = tr
  retries : t.retries = retries
  faulted : t.faulted = s.faulted
  readLocalAddr : t.readLocalAddr = s.readLocalAddr

section
variable {s t : State} {lines : List Bool} {n : Nat} {buf : List Byte} {tr : List Event} {rest : List (List Byte)}

theorem InReceive.atPhase (h : InReceive s lines n buf tr rest t) (p : Phase) :
    InReceive s lines n buf tr rest (atPhase p t) := { h with }

theorem InReceive.setRetries (h : InReceive s lines n buf tr rest t) (m : Nat) :
    InReceive s lines m buf tr rest (setRetries m t) := { h with retries := rfl }

theorem InReceive.zeroRxBuf (h : InReceive s lines n buf tr rest t) :
    InReceive s lines n (List.replicate s.params.rxBufLen 0) tr rest (zeroRxBuf t) :=
  { h with rxBuf := by rw [zeroRxBuf_rxBuf, h.params]; rfl }

/-- A complete transaction. -/
theorem InReceive.moved {a mosi : List Byte} (h : InReceive s lines n buf tr (a :: rest) t) :
    InReceive s lines n buf (tr ++ transaction mosi a) rest (moved mosi a { t.env with busTape := rest } t) :=
  { h with
    cs := rfl
    settled := ⟨h.settled.1, rfl, h.settled.2.2⟩
    trace := by rw [moved_trace, h.trace] }

theorem InReceive.counted {p : Phase} {m : Nat} {es : List Event} {answers : List (List Byte)}
    (h : InReceive s lines n buf tr answers t) : InReceive s lines m buf (tr ++ es) rest (counted p m rest es t) :=
  { h with
    cs := rfl
    settled := ⟨h.settled.1, rfl, h.settled.2.2⟩
    retries := rfl
    trace := congrArg (· ++ es) h.trace }

theorem InReceive.polled {p : Phase} {ls later : List Bool} (h : InReceive s lines n buf tr rest t) :
    InReceive s later n buf (tr ++ samples ls) rest (polled p ls later t) :=
  { h with
    settled := ⟨h.settled.1, h.settled.2.1, rfl⟩
    trace := by rw [polled_trace, h.trace] }

theorem InReceive.readStatusAt {p : Phase} {a : Addr} {z v : Byte} {k : Byte → State → State}
    (h : InReceive s lines n buf tr ([z, v] :: rest) t) :
    ∃ u, readStatusAt p a t k = k v u ∧ u.phase = p ∧
      InReceive s lines n buf (tr ++ statusRead s.params a z v) rest u := by
  obtain ⟨hsource, htape, -⟩ := h.settled
  refine ⟨_, readStatusAt_settled hsource htape, rfl, ?_⟩
  rw [frameReadStatus_eq, h.params]
  exact (h.atPhase p).moved

theorem InReceive.enterRx {p₁ p₂ p₃ : Phase} {d₁ d₂ d₃ : Byte} {k : State → State}
    (h : InReceive s lines n buf tr ([d₁] :: [d₂] :: [d₃] :: rest) t) :
    ∃ u, enterRx p₁ p₂ p₃ t k = k u ∧
      InReceive s lines n buf (tr ++ rxEntered s.params d₁ d₂ d₃) rest u := by
  obtain ⟨hsource, htape, hline⟩ := h.settled
  refine ⟨_, enterRx_settled hsource htape, ?_⟩
  exact { h with
    linkMode := rfl
    cs := rfl
    settled := ⟨hsource, rfl, hline⟩
    trace := by rw [← h.params, ← h.trace] }


/-- The outputs while nothing is delivered (R40). -/
theorem InReceive.outputsDrawn (h : InReceive s lines n (drawnBuf s.params.rxBufLen s.rxDraws) tr rest t) :
    OutputsDrawn s.rxDraws t :=
  ⟨h.header, by rw [h.rxBuf, h.params]⟩

end

/-- How an operation with CS high ends (R405). -/
theorem concludes_raise {s : State} (h : s.cs = true) (o : OutcomeCode) (p : Phase) (sub : SubReason) :
    Concludes (raise o p sub s) o p sub :=
  ⟨rfl, rfl, rfl, rfl, rfl, h⟩

/-! ### The parts of RECEIVE (R275 to R280) -/

/-- RECEIVE from the packet on (R276). -/
def receiveWaited (s : State) : State := stableCount s fun c s => receiveCounted (rxCount s.params c) s

/-- RECEIVE from the MARCSTATE read on (R278 to R280). -/
def receiveStated (count : Nat) (m : Byte) (s : State) : State :=
  if overflowIndicated s.params m then overflow .none s
  else if s.params.rxBufLen < count then overflow .countOverBuffer s
  else
    xferAt .rBurst (frameReadBurst s.params s.params.addrFifo count) s fun miso s =>
    receiveImage (miso.drop 1) count s

theorem receiveBody_eq (s : State) : receiveBody s =
    enterRx .rIdle .rFlush .rSrx (drawReceive s) fun s =>
      pollAt .rWait true s.params.rxPolls s (raise .rxTimeout .rWait .none) receiveWaited := rfl

theorem receiveCounted_zero (s : State) : receiveCounted 0 s = raise .noData s.phase .none s := rfl

theorem receiveCounted_pos {n : Nat} (h : n ≠ 0) (s : State) :
    receiveCounted n s = readStatusAt .rState s.params.addrMarcstate s (receiveStated n) := by
  rw [receiveCounted, if_neg h]
  rfl

/-- The image is discarded: it is malformed, or its CRC-OK bit is 0 (R281, R282). -/
theorem receiveImage_discard {r : List Byte} {n : Nat} {s : State}
    (h : imageMalformed r n = true ∨ crcOk s.params (byteAt r ((byteAt r 0).toNat + 2)) = false) :
    receiveImage r n s =
      crcDiscard (if imageMalformed r n = true then .malformedFrame else .none) (atPhase .rCrc s) := by
  cases hm : imageMalformed r n with
  | true => simp [receiveImage, hm]
  | false =>
    have hc := h.resolve_left (by simp [hm])
    simp [receiveImage, hm, hc]

/-- The image passes the CRC check, and its address byte is compared (R284). -/
theorem receiveImage_passed {r : List Byte} {n : Nat} {s : State} {la : Byte} (hm : imageMalformed r n = false)
    (hc : crcOk s.params (byteAt r ((byteAt r 0).toNat + 2)) = true) (hla : s.readLocalAddr = some la) :
    receiveImage r n s =
      if byteAt r 1 = la then
        resumeRx (atPhase .rDeliver s) fun s => raise .ok .rDeliver .none (deliver r s)
      else resumeRx (atPhase .rAddr s) fun s => raise .addressMismatch .rAddr .none s := by
  have hla' : (atPhase .rAddr (atPhase .rCrc s)).readLocalAddr = some la := hla
  simp only [receiveImage, hm, atPhase_params, hc, hla', addrMatch, beq_iff_eq]
  rfl

theorem exec_receive {s : State} (h : LinkReady s) : exec .receive s = .next (receiveBody (beginOp s)) := by
  obtain ⟨⟨hready, hinit⟩, hconf⟩ := h
  rw [exec, execReceive, admitOp_run hready (gateFault_link hinit hconf)]

section
variable {s : State} {m₁ m₂ m₃ c : Byte} {rest : List (List Byte)} {lines : List Bool} {i : Nat}
  {reads : List (Byte × Byte)}

/-- RX is entered (R275). -/
theorem exec_receive_entered (hs : LinkReady s) (h : Settled s ([m₁] :: [m₂] :: [m₃] :: rest) lines) :
    ∃ t, exec .receive s =
        .next (pollAt .rWait true s.params.rxPolls t (raise .rxTimeout .rWait .none) receiveWaited) ∧
      InReceive s lines 0 (drawnBuf s.params.rxBufLen s.rxDraws) (s.trace ++ rxEntered s.params m₁ m₂ m₃) rest t := by
  obtain ⟨hsource, htape, hline⟩ := h
  rw [exec_receive hs, receiveBody_eq, enterRx_settled (s := drawReceive (beginOp s)) hsource htape]
  exact ⟨_, rfl, rfl, rfl, rfl, ⟨rfl, rfl, rfl, rfl, rfl⟩, rfl, ⟨hsource, rfl, hline⟩, rfl, rfl, rfl, rfl⟩

/-- A packet has come within the budget (R271, R275). -/
theorem exec_receive_waited (hs : LinkReady s) (hi : i < s.params.rxPolls)
    (h : Settled s ([m₁] :: [m₂] :: [m₃] :: rest) (List.replicate i false ++ true :: lines)) :
    ∃ t, exec .receive s = .next (receiveWaited t) ∧
      InReceive s lines 0 (drawnBuf s.params.rxBufLen s.rxDraws)
        (s.trace ++ rxEntered s.params m₁ m₂ m₃ ++ samples (List.replicate i false ++ [true])) rest t := by
  obtain ⟨t, hexec, ht⟩ := exec_receive_entered hs h
  obtain ⟨hsource, -, hline⟩ := ht.settled
  rw [hexec, pollAt_met (level := true) hi hsource hline]
  exact ⟨_, rfl, ht.polled⟩

/-- The count is agreed on (R276). -/
theorem exec_receive_counted (hs : LinkReady s) (hi : i < s.params.rxPolls) (ha : CountAgreed s.params reads c)
    (h : Settled s ([m₁] :: [m₂] :: [m₃] :: readAnswers reads ++ rest) (List.replicate i false ++ true :: lines)) :
    ∃ t, exec .receive s = .next (receiveCounted (rxCount s.params c) t) ∧ t.phase = countPhase reads.length ∧
      InReceive s lines (reads.length - 2) (drawnBuf s.params.rxBufLen s.rxDraws)
        (s.trace ++ rxEntered s.params m₁ m₂ m₃ ++ samples (List.replicate i false ++ [true]) ++
          countReads s.params reads) rest t := by
  obtain ⟨t, hexec, ht⟩ := exec_receive_waited hs hi h
  obtain ⟨hsource, htape, -⟩ := ht.settled
  rw [← ht.params] at ha
  refine ⟨_, ?_, rfl, ht.counted⟩
  rw [hexec, receiveWaited, stableCount_settled ha hsource htape, ht.params]
  exact congrArg (fun p => Host.Outcome.next (receiveCounted (rxCount p c) _)) ht.params

/-- MARCSTATE is read (R278). -/
theorem exec_receive_stated {z m : Byte} (hs : LinkReady s) (hi : i < s.params.rxPolls)
    (ha : CountAgreed s.params reads c) (hc : rxCount s.params c ≠ 0)
    (h : Settled s ([m₁] :: [m₂] :: [m₃] :: readAnswers reads ++ [z, m] :: rest)
      (List.replicate i false ++ true :: lines)) :
    ∃ t, exec .receive s = .next (receiveStated (rxCount s.params c) m t) ∧
      InReceive s lines (reads.length - 2) (drawnBuf s.params.rxBufLen s.rxDraws)
        (s.trace ++ rxEntered s.params m₁ m₂ m₃ ++ samples (List.replicate i false ++ [true]) ++
          countReads s.params reads ++ statusRead s.params s.params.addrMarcstate z m) rest t := by
  obtain ⟨t, hexec, -, ht⟩ := exec_receive_counted hs hi ha h
  rw [hexec, receiveCounted_pos hc, ht.params]
  obtain ⟨u, hu, -, hu'⟩ := ht.readStatusAt
  exact ⟨u, congrArg Host.Outcome.next hu, hu'⟩

/-- The image is read (R280). -/
theorem exec_receive_image {z m w : Byte} {image : List Byte} (hs : LinkReady s) (hi : i < s.params.rxPolls)
    (ha : CountAgreed s.params reads c) (hc : rxCount s.params c = image.length) (hne : image ≠ [])
    (hlen : image.length ≤ s.params.rxBufLen) (hm : m &&& s.params.marcstateMask ≠ s.params.marcstateOverflow)
    (h : Settled s ([m₁] :: [m₂] :: [m₃] :: readAnswers reads ++ [z, m] :: (w :: image) :: rest)
      (List.replicate i false ++ true :: lines)) :
    ∃ t, exec .receive s = .next (receiveImage image image.length t) ∧
      InReceive s lines (reads.length - 2) (drawnBuf s.params.rxBufLen s.rxDraws)
        (s.trace ++ rxEntered s.params m₁ m₂ m₃ ++ samples (List.replicate i false ++ [true]) ++
          countReads s.params reads ++ statusRead s.params s.params.addrMarcstate z m ++
          transaction (burstReadFrame s.params image.length) (w :: image)) rest t := by
  have hpos : image.length ≠ 0 := mt List.length_eq_zero_iff.1 hne
  obtain ⟨t, hexec, ht⟩ := exec_receive_stated hs hi ha (hc ▸ hpos) h
  obtain ⟨hsource, htape, -⟩ := ht.settled
  have hovf : ¬ overflowIndicated t.params m = true := by simpa [overflowIndicated, ht.params] using hm
  rw [hexec, hc, receiveStated, if_neg hovf, ht.params, if_neg (Nat.not_lt.2 hlen),
    xferAt_settled hsource htape (by simp [frameReadBurst]), frameReadBurst_fifo]
  exact ⟨_, rfl, (ht.atPhase _).moved⟩

end

/-! ### RECEIVE's ends (R277 to R289) -/

/-- Settles O35: an agreed count of 0 ends RECEIVE where it stands. -/
theorem receiveReportsNoData : Obligations.ReceiveReportsNoData := by
  intro m₁ m₂ m₃ c reads rest i lines s hs hi ha hc h
  obtain ⟨t, hexec, hphase, ht⟩ := exec_receive_counted hs hi ha h
  have hzero : rxCount s.params c = 0 := by rw [rxCount, hc]; rfl
  rw [hzero, receiveCounted_zero, hphase] at hexec
  exact ⟨_, hexec, concludes_raise ht.cs _ _ _, ht.linkMode, ht.outputsDrawn, ht.settled, ht.retries, ht.trace⟩

/-- Settles O39: the wait's timeout ends RECEIVE, with RX entered and nothing delivered. -/
theorem receiveTimesOut : Obligations.ReceiveTimesOut := by
  intro m₁ m₂ m₃ rest lines s hs h
  obtain ⟨t, hexec, ht⟩ := exec_receive_entered hs h
  obtain ⟨hsource, -, hline⟩ := ht.settled
  rw [pollAt_timeout (level := true) hsource hline] at hexec
  have hu := ht.polled (p := .rWait) (ls := List.replicate s.params.rxPolls false) (later := lines)
  exact ⟨_, hexec, concludes_raise hu.cs _ _ _, hu.linkMode, hu.outputsDrawn, hu.settled, hu.trace⟩

/-- Both overflows, told apart by MARCSTATE (R278, R279). -/
theorem receiveStated_overflow {n : Nat} {m : Byte} {s : State}
    (h : overflowIndicated s.params m = true ∨ s.params.rxBufLen < n) :
    receiveStated n m s = overflow (if overflowIndicated s.params m = true then .none else .countOverBuffer) s := by
  by_cases hm : overflowIndicated s.params m = true
  · rw [receiveStated, if_pos hm, if_pos hm]
  · rw [receiveStated, if_neg hm, if_neg hm, if_pos (h.resolve_left hm)]

theorem overflowIndicated_iff {p : Params} {m : Byte} :
    overflowIndicated p m = true ↔ m &&& p.marcstateMask = p.marcstateOverflow := by
  simp [overflowIndicated]

/-- Settles O36: MARCSTATE or the count leads to `overflow`, which reads nothing and re-enters RX. -/
theorem receiveReportsOverflow : Obligations.ReceiveReportsOverflow := by
  intro m₁ m₂ m₃ z c m d₁ d₂ d₃ reads rest i lines s hs hi ha hc hovf h
  have hpos : rxCount s.params c ≠ 0 := fun h0 => hc (BitVec.eq_of_toNat_eq (by simpa [rxCount] using h0))
  obtain ⟨t, hexec, ht⟩ := exec_receive_stated hs hi ha hpos h
  rw [receiveStated_overflow (by rw [ht.params, overflowIndicated_iff]; exact hovf), ht.params] at hexec
  simp only [overflowIndicated_iff] at hexec
  obtain ⟨u, hu, hu'⟩ := ht.enterRx (k := fun s => raise .rxFifoOverflow .rState _ s)
  rw [overflow, hu] at hexec
  exact ⟨_, hexec, concludes_raise hu'.cs _ _ _, hu'.linkMode, hu'.outputsDrawn, hu'.settled, hu'.retries, hu'.trace⟩

/-- Settles O37: the image is discarded, with RX_BUF zeroed before RX is re-entered. -/
theorem receiveReportsCrcError : Obligations.ReceiveReportsCrcError := by
  intro m₁ m₂ m₃ z w c m l d₁ d₂ d₃ reads r rest i lines s hs hi ha hc hlen hm hbad h
  obtain ⟨t, hexec, ht⟩ := exec_receive_image (image := l :: r) hs hi ha hc (List.cons_ne_nil _ _) hlen hm h
  have hmal : imageMalformed (l :: r) (l :: r).length = true ↔ l = 0 ∨ r.length + 1 < l.toNat + 3 := by
    rw [imageMalformed_iff, ← BitVec.toNat_inj]
    rfl
  have hcrc : crcOk t.params (byteAt (l :: r) ((byteAt (l :: r) 0).toNat + 2)) =
      (r.getD (l.toNat + 1) 0).getLsbD s.params.crcOkBit := by rw [ht.params]; rfl
  rw [receiveImage_discard (by rw [hmal, hcrc, or_assoc]; exact hbad)] at hexec
  simp only [hmal] at hexec
  obtain ⟨u, hu, hu'⟩ := (ht.atPhase .rCrc).zeroRxBuf.enterRx (k := fun s => raise .crcError .rCrc _ s)
  rw [crcDiscard, resumeRx, hu] at hexec
  obtain ⟨⟨⟨hf, -⟩, -⟩, -⟩ := hs
  exact ⟨_, hexec, concludes_raise hu'.cs _ _ _, hu'.linkMode, hu'.rxBuf, hu'.header, hu'.settled,
    hu'.faulted.trans hf, hu'.retries, hu'.trace⟩

/-! A frame that passes the CRC check (R372) -/

section
variable {p : Params} {l a status₁ status₂ : Byte} {payload later image : List Byte} {waits : Nat}
  {line laterLine : List Bool}

theorem ChipConfigOk.Receiving.byteAt_length
    (h : Receiving p l a payload status₁ status₂ later true image waits line laterLine) : byteAt image 0 = l := by
  rw [h.statusAppended]; rfl

theorem ChipConfigOk.Receiving.byteAt_address
    (h : Receiving p l a payload status₁ status₂ later true image waits line laterLine) : byteAt image 1 = a := by
  rw [h.statusAppended]; rfl

theorem ChipConfigOk.Receiving.byteAt_status₁
    (h : Receiving p l a payload status₁ status₂ later true image waits line laterLine) :
    byteAt image (l.toNat + 1) = status₁ := by
  simp [h.statusAppended, h.variableLength, byteAt]

theorem ChipConfigOk.Receiving.byteAt_status₂
    (h : Receiving p l a payload status₁ status₂ later true image waits line laterLine) :
    byteAt image (l.toNat + 2) = status₂ := by
  simp [h.statusAppended, h.variableLength, byteAt]

theorem ChipConfigOk.Receiving.payloadOf_eq
    (h : Receiving p l a payload status₁ status₂ later true image waits line laterLine) :
    payloadOf image l.toNat = payload := by
  rw [h.statusAppended, payloadOf_append h.variableLength]

theorem ChipConfigOk.Receiving.not_malformed
    (h : Receiving p l a payload status₁ status₂ later true image waits line laterLine) :
    imageMalformed image image.length = false := by
  rw [← Bool.not_eq_true, imageMalformed_iff, h.byteAt_length, h.variableLength, h.statusAppended]
  simp only [List.length_cons, List.length_append]
  omega

theorem ChipConfigOk.Receiving.crcOk
    (h : Receiving p l a payload status₁ status₂ later true image waits line laterLine) :
    crcOk p (byteAt image ((byteAt image 0).toNat + 2)) = true := by
  rw [h.byteAt_length, h.byteAt_status₂]
  exact h.crcEnabled

theorem ChipConfigOk.Receiving.image_ne_nil
    (h : Receiving p l a payload status₁ status₂ later true image waits line laterLine) : image ≠ [] := by
  rw [h.statusAppended]
  exact List.cons_ne_nil _ _

end

/-- The image has passed the CRC check, and LOCAL_ADDR decides (R284). -/
theorem exec_receive_passed {m₁ m₂ m₃ z w c m l a s₁ s₂ : Byte} {reads : List (Byte × Byte)}
    {payload later image : List Byte} {rest : List (List Byte)} {i : Nat} {lines : List Bool} {s : State}
    (hs : LinkReady s) (hla : s.written.localAddr = true) (hi : i < s.params.rxPolls)
    (ha : CountAgreed s.params reads c) (hc : rxCount s.params c = image.length)
    (hlen : image.length ≤ s.params.rxBufLen) (hm : m &&& s.params.marcstateMask ≠ s.params.marcstateOverflow)
    (hok : ChipConfigOk.Receiving s.params l a payload s₁ s₂ later true image i s.env.lineTape lines)
    (hsource : s.env.source = .oracle)
    (htape : s.env.busTape = [m₁] :: [m₂] :: [m₃] :: readAnswers reads ++ [z, m] :: (w :: image) :: rest) :
    ∃ t, exec .receive s = .next (if a = s.localAddr then
          resumeRx (atPhase .rDeliver t) fun u => raise .ok .rDeliver .none (deliver image u)
        else resumeRx (atPhase .rAddr t) fun u => raise .addressMismatch .rAddr .none u) ∧
      InReceive s lines (reads.length - 2) (drawnBuf s.params.rxBufLen s.rxDraws)
        (s.trace ++ rxEntered s.params m₁ m₂ m₃ ++ samples (List.replicate i false ++ [true]) ++
          countReads s.params reads ++ statusRead s.params s.params.addrMarcstate z m ++
          transaction (burstReadFrame s.params image.length) (w :: image)) rest t := by
  obtain ⟨t, hexec, ht⟩ :=
    exec_receive_image hs hi ha hc hok.image_ne_nil hlen hm ⟨hsource, htape, hok.lineAsserts⟩
  have hlocal : t.readLocalAddr = some s.localAddr := by rw [ht.readLocalAddr, State.readLocalAddr, if_pos hla]
  refine ⟨t, ?_, ht⟩
  rw [hexec, receiveImage_passed hok.not_malformed (by rw [ht.params]; exact hok.crcOk) hlocal, hok.byteAt_address]

/-- Settles O34: the frame is for this block, and the delivery follows the Resume. -/
theorem receiveDelivers : Obligations.ReceiveDelivers := by
  intro m₁ m₂ m₃ z w c m l a s₁ s₂ d₁ d₂ d₃ reads payload later image rest i lines s hs hla hi ha hc hlen hm hok haddr
    hsource htape
  obtain ⟨t, hexec, ht⟩ := exec_receive_passed hs hla hi ha hc hlen hm hok hsource htape
  obtain ⟨u, hu, hu'⟩ := (ht.atPhase .rDeliver).enterRx (k := fun u => raise .ok .rDeliver .none (deliver image u))
  rw [if_pos haddr, resumeRx, hu] at hexec
  obtain ⟨⟨⟨hf, -⟩, -⟩, -⟩ := hs
  obtain ⟨-, -, -, -, hwritten⟩ := hu'.header
  refine ⟨_, hexec, concludes_raise hu'.cs _ _ _, hu'.linkMode, ?_, ?_, ?_, ?_, ?_, hwritten, hu'.settled,
    hu'.faulted.trans hf, hu'.retries, hu'.trace⟩
  · exact hok.byteAt_length
  · exact hok.byteAt_address
  · simp [hok.byteAt_length, hok.byteAt_status₁]
  · simp [hok.byteAt_length, hok.byteAt_status₂]
  · simp [hok.byteAt_length, hok.payloadOf_eq, hu'.rxBuf]

/-- Settles O38: the frame is for another block, and is dropped. -/
theorem receiveReportsAddressMismatch : Obligations.ReceiveReportsAddressMismatch := by
  intro m₁ m₂ m₃ z w c m l a s₁ s₂ d₁ d₂ d₃ reads payload later image rest i lines s hs hla hi ha hc hlen hm hok haddr
    hsource htape
  obtain ⟨t, hexec, ht⟩ := exec_receive_passed hs hla hi ha hc hlen hm hok hsource htape
  obtain ⟨u, hu, hu'⟩ := (ht.atPhase .rAddr).enterRx (k := fun u => raise .addressMismatch .rAddr .none u)
  rw [if_neg haddr, resumeRx, hu] at hexec
  obtain ⟨⟨⟨hf, -⟩, -⟩, -⟩ := hs
  exact ⟨_, hexec, concludes_raise hu'.cs _ _ _, hu'.linkMode, hu'.outputsDrawn, hu'.settled, hu'.faulted.trans hf,
    hu'.retries, hu'.trace⟩

/-! ### The count (R276, R277) -/

/-- StableCount's loop on settled reads none of which agrees with the one before (R276). -/
theorem countLoop_unstable {s : State} {lines : List Bool} {buf : List Byte} {rest : List (List Byte)}
    {k : Byte → State → State} {reads : List (Byte × Byte)} :
    ∀ {n : Nat} {tr : List Event} {c₁ c₂ : Byte} {t : State},
      InReceive s lines n buf tr (readAnswers reads ++ rest) t → t.phase = countPhase (n + 2) →
      (c₁ :: c₂ :: reads.map Prod.snd).IsChain (· ≠ ·) →
      ∃ u, countLoop reads.length c₁ c₂ t k = raise .rxTimeout (countPhase (n + reads.length + 2)) .countUnstable u ∧
        InReceive s lines (n + reads.length) buf (tr ++ countReads s.params reads) rest u := by
  induction reads with
  | nil =>
    intro n tr c₁ c₂ t ht hphase hchain
    obtain ⟨hne, -⟩ := List.isChain_cons_cons.1 hchain
    exact ⟨t, by rw [List.length_nil, countLoop, if_neg hne, hphase, Nat.add_zero], by simpa [countReads] using ht⟩
  | cons r reads ih =>
    obtain ⟨x, c₃⟩ := r
    intro n tr c₁ c₂ t ht hphase hchain
    rw [List.map_cons, List.isChain_cons_cons] at hchain
    obtain ⟨hne, hchain⟩ := hchain
    obtain ⟨u, hu, hu_phase, hu'⟩ := ht.readStatusAt (p := .rCountRetry n) (a := s.params.addrRxbytes)
      (k := fun c₃ s => countLoop reads.length c₂ c₃ (setRetries (s.retries + 1) s) k)
    obtain ⟨v, hv, hv'⟩ := ih (hu'.setRetries (n + 1)) (by simpa [countPhase] using hu_phase) hchain
    refine ⟨v, ?_, by simpa [countReads, Nat.add_assoc, Nat.add_comm 1] using hv'⟩
    rw [List.length_cons, countLoop, if_neg hne, ht.retries, ht.params, hu, hu'.retries, hv]
    simp [Nat.add_assoc, Nat.add_comm 1]

/-- StableCount whose whole budget of reads never agrees (R276). -/
theorem stableCount_unstable {s t : State} {lines : List Bool} {n : Nat} {buf : List Byte}
    {tr : List Event} {rest : List (List Byte)} {k : Byte → State → State} {reads : List (Byte × Byte)}
    (h : InReceive s lines n buf tr (readAnswers reads ++ rest) t)
    (hchain : (reads.map Prod.snd).IsChain (· ≠ ·)) (hlen : reads.length = s.params.countAgreeRetries + 2) :
    ∃ u, stableCount t k = raise .rxTimeout (countPhase reads.length) .countUnstable u ∧
      InReceive s lines s.params.countAgreeRetries buf (tr ++ countReads s.params reads) rest u := by
  obtain ⟨⟨x₁, c₁⟩, ⟨x₂, c₂⟩, reads, rfl⟩ : ∃ r₁ r₂ later, reads = r₁ :: r₂ :: later :=
    match reads, hlen with
    | r₁ :: r₂ :: later, _ => ⟨r₁, r₂, later, rfl⟩
  have hleft : reads.length = s.params.countAgreeRetries := by simpa using hlen
  obtain ⟨u, hu, -, hu'⟩ := h.readStatusAt (p := .rCount1) (a := s.params.addrRxbytes)
    (k := fun c₁ s => readStatusAt .rCount2 s.params.addrRxbytes s fun c₂ s =>
      countLoop s.params.countAgreeRetries c₁ c₂ (setRetries 0 s) k)
  obtain ⟨v, hv, hv_phase, hv'⟩ := hu'.readStatusAt (p := .rCount2) (a := s.params.addrRxbytes)
    (k := fun c₂ s => countLoop s.params.countAgreeRetries c₁ c₂ (setRetries 0 s) k)
  obtain ⟨w, hw, hw'⟩ := countLoop_unstable (k := k) (hv'.setRetries 0) hv_phase hchain
  refine ⟨w, ?_, by simpa [countReads, hleft] using hw'⟩
  rw [stableCount, h.params, hu, hu'.params, hv, hv'.params, ← hleft, hw]
  simp

/-- What RECEIVE keeps from an agreed count on: RETRIES, and the trace so far. -/
def Continues (n : Nat) (tr : List Event) (s : State) : Prop := s.retries = n ∧ tr <+: s.trace

theorem strobes_continues (n : Nat) (tr : List Event) : Strobes (Continues n tr) (Continues n tr) where
  toTransacts := .keeping (fun _ _ h => h) (fun _ _ h => ⟨h.1, h.2.trans (List.prefix_append _ _)⟩)
    fun _ _ _ _ h => h
  mode _ _ h := h

/-- From the MARCSTATE read on, the trace only grows. -/
theorem Continues.receiveStated {n count : Nat} {tr : List Event} {m : Byte} {s : State} (h : Continues n tr s) :
    Continues n tr (receiveStated count m s) := by
  have keeps := strobes_continues n tr
  have hovf : ∀ sub, Continues n tr (overflow sub s) := fun sub => keeps.enterRx h fun _ ht => ht
  unfold Machine.receiveStated
  split
  · exact hovf _
  split
  · exact hovf _
  · exact keeps.xferAt h fun miso t _ ht =>
      keeps.receiveImage (fun _ hu => hu) (fun _ _ _ hu => hu) (fun _ hu _ => hu) (Nat.le_refl _) ht

/-- What follows an agreed count that does not mask to 0 is the MARCSTATE read (R278). -/
theorem receiveCounted_reads_marcstate {n : Nat} (hn : n ≠ 0) (s : State) :
    ∃ miso, Continues s.retries (s.trace ++ transaction (statusFrame s.params s.params.addrMarcstate) miso)
      (receiveCounted n s) := by
  rw [receiveCounted_pos hn, readStatusAt, frameReadStatus_eq, xferAt, xferThen]
  have hread : Continues s.retries
      (s.trace ++ transaction (statusFrame s.params s.params.addrMarcstate)
        (xfer (statusFrame s.params s.params.addrMarcstate) (atPhase .rState s)).1)
      (xfer (statusFrame s.params s.params.addrMarcstate) (atPhase .rState s)).2 :=
    ⟨rfl, by rw [← transactionEvents_eq]; exact List.prefix_refl _⟩
  exact ⟨_, xferOr_cases (fun _ => hread) fun _ => hread.receiveStated⟩

/-- Settles O40: no two reads agree, and the loop ends in COUNT_UNSTABLE; two agree, and RECEIVE goes on from there
whatever the environment answers. -/
theorem countIsDebounced : Obligations.CountIsDebounced := by
  intro m₁ m₂ m₃ reads rest i lines s hs hi h
  refine ⟨fun hchain hlen => ?_, fun c ha => ?_⟩
  · obtain ⟨t, hexec, ht⟩ := exec_receive_waited hs hi h
    obtain ⟨u, hu, hu'⟩ := stableCount_unstable (k := fun c s => receiveCounted (rxCount s.params c) s) ht hchain hlen
    rw [receiveWaited, hu] at hexec
    exact ⟨_, hexec, concludes_raise hu'.cs _ _ _, hu'.linkMode, hu'.outputsDrawn, hu'.settled, hu'.retries, hu'.trace⟩
  · obtain ⟨t, hexec, -, ht⟩ := exec_receive_counted hs hi ha h
    by_cases hc : c &&& s.params.rxbytesCountMask = 0
    · have hzero : rxCount s.params c = 0 := by rw [rxCount, hc]; rfl
      rw [hzero, receiveCounted_zero] at hexec
      exact ⟨_, [], hexec, ht.retries, by simp [ht.trace], fun _ => rfl, fun hne => absurd hc hne⟩
    · have hpos : rxCount s.params c ≠ 0 := fun h0 => hc (BitVec.eq_of_toNat_eq (by simpa [rxCount] using h0))
      obtain ⟨miso, hretries, es, hes⟩ := receiveCounted_reads_marcstate hpos t
      refine ⟨_, _, hexec, hretries.trans ht.retries, ?_, fun h0 => absurd h0 hc, fun _ => ⟨miso, es, rfl⟩⟩
      rw [← hes, ht.trace, ht.params, List.append_assoc]

end Sys2Proof.Machine
end

section
/-! PROOFS. What the host operations leave unchanged (R52, R102): the columns each update writes, the registers of the
reference chip each frame writes, and the operations put together from them. -/

namespace Sys2Proof.Machine

/-! ### Columns -/

theorem Same.refl (s : State) (c : Column) : Same s s c := by
  cases c <;> simp [Same]

theorem Same.trans {s t u : State} {c : Column} (h₁ : Same s t c) (h₂ : Same t u c) : Same s u c := by
  cases c <;> simp_all [Same]

/-- An update that leaves FAULTED alone writes the columns whose fields it changes: each other column is seen to be as
it was. -/
theorem WritesOnly.of_fields {ws : List Column} {s t : State}
    (hsame : ∀ c, c ∉ ws → Same s t c := by intro c hc; cases c <;> simp_all [Same])
    (hp : t.params = s.params := by rfl) (hh : t.hostIn = s.hostIn := by rfl) (hb : t.busIn = s.busIn := by rfl)
    (hf : t.faulted = s.faulted := by rfl) (hc : t.faultCause = s.faultCause := by rfl) : WritesOnly ws s t :=
  ⟨hsame, hp, hh, hb, .inl ⟨hf, hc⟩⟩

theorem WritesOnly.refl (ws : List Column) (s : State) : WritesOnly ws s s :=
  .of_fields (fun c _ => .refl s c)

/-- What follows may write the columns that are written already. -/
theorem WritesOnly.trans {ws vs : List Column} {s t u : State} (h₁ : WritesOnly ws s t) (h₂ : WritesOnly vs t u)
    (hv : vs ⊆ ws) : WritesOnly ws s u := by
  obtain ⟨hsame₁, hp₁, hh₁, hb₁, hf₁⟩ := h₁
  obtain ⟨hsame₂, hp₂, hh₂, hb₂, hf₂⟩ := h₂
  refine ⟨fun c hc => (hsame₁ c hc).trans (hsame₂ c fun hcv => hc (hv hcv)), hp₂.trans hp₁, hh₂.trans hh₁,
    hb₂.trans hb₁, ?_⟩
  rcases hf₂ with ⟨hf, hc⟩ | hf
  · rw [hf, hc]
    exact hf₁
  · exact .inr hf

section
variable (s : State)

theorem atPhase_writesOnly (p : Phase) : WritesOnly [] s (atPhase p s) :=
  .of_fields

theorem raise_writesOnly (o : OutcomeCode) (p : Phase) (sub : SubReason) : WritesOnly [] s (raise o p sub s) :=
  .of_fields

theorem refuse_writesOnly : WritesOnly [] s (refuse s) :=
  .of_fields

theorem modelFault_writesOnly (f : Fault) : WritesOnly [] s (modelFault f s) :=
  ⟨fun c _ => by cases c <;> simp [Same], rfl, rfl, rfl, .inr ⟨rfl, by simp⟩⟩

theorem clearCounters_writesOnly : WritesOnly [.counters] s (clearCounters s) :=
  .of_fields

theorem beginOp_writesOnly : WritesOnly [.counters] s (beginOp s) :=
  .of_fields

theorem setPolls_writesOnly (n : Nat) : WritesOnly [.counters] s (setPolls n s) :=
  .of_fields

theorem setRetries_writesOnly (n : Nat) : WritesOnly [.counters] s (setRetries n s) :=
  .of_fields

theorem recordStrobe_writesOnly (c : Strobe) : WritesOnly [.linkMode] s (recordStrobe c s) :=
  .of_fields

theorem xfer_writesOnly (mosi : List Byte) : WritesOnly [.cs, .environment] s (xfer mosi s).2 :=
  .of_fields

theorem sampleLine_writesOnly : WritesOnly [.environment] s (sampleLine s).2 :=
  .of_fields

theorem csPulse_writesOnly : WritesOnly [.cs, .environment] s (csPulse s) :=
  .of_fields

theorem waitSettle_writesOnly : WritesOnly [.environment] s (waitSettle s) :=
  .of_fields

theorem markReset_writesOnly : WritesOnly [.linkMode, .initialised, .configured] s (markReset s) :=
  .of_fields

theorem clearInitialised_writesOnly : WritesOnly [.initialised, .configured] s (clearInitialised s) :=
  .of_fields

theorem clearConfigured_writesOnly : WritesOnly [.configured] s (clearConfigured s) :=
  .of_fields

theorem setLocalAddr_writesOnly (a : Byte) : WritesOnly [.localAddr, .configured] s (setLocalAddr a s) :=
  .of_fields

theorem storeFrame_writesOnly (f : List Byte) : WritesOnly [.txFrame] s (storeFrame f s) :=
  .of_fields

theorem storeRead_writesOnly (d : List Byte) : WritesOnly [.rdData] s (storeRead d s) :=
  .of_fields

theorem storeParsed_writesOnly (r : List Byte) : WritesOnly [.pf] s (storeParsed r s) :=
  .of_fields

theorem storeDbm_writesOnly (d : Int) : WritesOnly [.lqDbm] s (storeDbm d s) :=
  .of_fields

theorem storeClass_writesOnly (c : LqClass) : WritesOnly [.lqClass] s (storeClass c s) :=
  .of_fields

theorem storeRaw_writesOnly (v : Byte) : WritesOnly [.lqRaw] s (storeRaw v s) :=
  .of_fields

theorem drawReceive_writesOnly : WritesOnly [.rx] s (drawReceive s) :=
  .of_fields

theorem zeroRxBuf_writesOnly : WritesOnly [.rx] s (zeroRxBuf s) :=
  .of_fields

theorem deliver_writesOnly (r : List Byte) : WritesOnly [.rx] s (deliver r s) :=
  .of_fields

end

/-! ### Registers of the reference chip (R102, R103) -/

/-- The configuration registers that a decoded frame names to be written. -/
def decodedWrites : BusDecoded → List Nat
  | .instr (.busWriteSingle a _) => [a.toNat]
  | .instr (.busWriteBurst a d) => List.range' a.toNat d.length
  | _ => []

/-- The configuration registers a frame writes. -/
def writtenRegisters (p : Params) (mosi : List Byte) : List Nat := decodedWrites (decodeBus p mosi)

@[simp] theorem Chip.statusRead_creg (p : Params) (c : Chip) (a : Addr) : (c.statusRead p a).2.creg = c.creg := by
  unfold Chip.statusRead
  split
  · rfl
  split
  · rfl
  split
  · split <;> rfl
  · rfl

@[simp] theorem Chip.strobe_creg (c : Chip) (k : Strobe) : (c.strobe k).creg = c.creg := by
  cases k <;> simp only [Chip.strobe] <;> split <;> rfl

@[simp] theorem Chip.readLine_creg (c : Chip) : c.readLine.2.creg = c.creg := by
  unfold Chip.readLine
  split <;> rfl

/-- A frame leaves the registers it does not write. -/
theorem Chip.transact_creg {p : Params} {c : Chip} {mosi : List Byte} {x : Nat} (h : x ∉ writtenRegisters p mosi) :
    Memory.read (c.transact p mosi).2.creg x = Memory.read c.creg x := by
  unfold writtenRegisters at h
  unfold Chip.transact
  cases hd : decodeBus p mosi with
  | rejected why => rfl
  | instr i =>
    rw [hd] at h
    cases i with
    | busWriteSingle a v =>
      have hx : x ≠ a.toNat := by simpa [decodedWrites] using h
      exact Chip.writeRegisters_read_outside (by simp only [List.length_singleton]; omega)
    | busWriteBurst a d =>
      have hx : ¬ (a.toNat ≤ x ∧ x < a.toNat + d.length) := by simpa [decodedWrites, List.mem_range'_1] using h
      exact Chip.writeRegisters_read_outside (by omega)
    | busReadStatus | busReadRssi | busReadMarcstate | busReadRxbytes =>
      exact congrArg (Memory.read · x) (Chip.statusRead_creg _ _ _)
    | busSrx | busStx | busSidle | busSfrx | busSftx => exact congrArg (Memory.read · x) (Chip.strobe_creg _ _)
    | _ => rfl

theorem Env.busAnswer_creg {p : Params} {e : Env} {mosi : List Byte} {x : Nat} (h : x ∉ writtenRegisters p mosi) :
    Memory.read (e.busAnswer p mosi).2.chip.creg x = Memory.read e.chip.creg x := by
  unfold Env.busAnswer
  cases e.source with
  | oracle => cases e.busTape <;> rfl
  | reference => exact (Chip.transact_creg h).trans (by rw [Chip.listen_creg])

@[simp] theorem Env.lineAnswer_creg (p : Params) (e : Env) : (e.lineAnswer p).2.chip.creg = e.chip.creg := by
  unfold Env.lineAnswer
  cases e.source with
  | oracle => cases e.lineTape <;> rfl
  | reference => exact (Chip.readLine_creg _).trans (Chip.listen_creg _ _)

/-! The registers each format writes (R125) -/

@[simp] theorem writtenRegisters_frameStrobe (p : Params) (c : Byte) : writtenRegisters p (frameStrobe c) = [] := by
  rw [writtenRegisters, decodeBus_frameStrobe, decodeStrobeFrame]
  split
  · rfl
  · cases Strobe.ofCode p c with
    | none => rfl
    | some k => cases k <;> rfl

theorem decodedWrites_decodeStatusRead (p : Params) (a : Addr) : decodedWrites (.instr (decodeStatusRead p a)) = [] := by
  unfold decodeStatusRead
  repeat' split
  all_goals rfl

theorem decodedWrites_decodeReadFrame (p : Params) (c : Byte) (n : Nat) :
    decodedWrites (decodeReadFrame p c n) = [] := by
  unfold decodeReadFrame
  split
  · split
    · rfl
    split
    · rfl
    split
    · split
      · exact decodedWrites_decodeStatusRead _ _
      · rfl
    · rfl
  · split <;> rfl

/-- No frame whose command byte says read writes. -/
theorem writtenRegisters_read {p : Params} {c : Byte} (hc : commandRead c = true) (d : List Byte) :
    writtenRegisters p (c :: d) = [] := by
  cases d with
  | nil => exact writtenRegisters_frameStrobe p c
  | cons b rest =>
    rw [writtenRegisters, decodeBus, if_pos hc]
    split
    · exact decodedWrites_decodeReadFrame _ _ _
    · rfl

@[simp] theorem writtenRegisters_frameReadSingle (p : Params) (a : Addr) :
    writtenRegisters p (frameReadSingle p a) = [] := writtenRegisters_read (by simp) _

@[simp] theorem writtenRegisters_frameReadStatus (p : Params) (a : Addr) :
    writtenRegisters p (frameReadStatus p a) = [] := writtenRegisters_read (by simp) _

@[simp] theorem writtenRegisters_frameReadBurst (p : Params) (a : Addr) (n : Nat) :
    writtenRegisters p (frameReadBurst p a n) = [] := writtenRegisters_read (by simp) _

@[simp] theorem writtenRegisters_frameWriteSingle (p : Params) (a : Addr) (v : Byte) :
    writtenRegisters p (frameWriteSingle a v) = [a.toNat] := by
  rw [writtenRegisters, decodeBus_frameWriteSingle, decodedWrites]

theorem writtenRegisters_frameWriteBurst (p : Params) (a : Addr) (d : List Byte) :
    writtenRegisters p (frameWriteBurst a d) ⊆ if a = p.addrFifo then [] else List.range' a.toNat d.length := by
  cases d with
  | nil =>
    have hnone : writtenRegisters p (frameWriteBurst a []) = [] := writtenRegisters_frameStrobe p _
    rw [hnone]
    exact List.nil_subset _
  | cons b rest =>
    rw [frameWriteBurst, writtenRegisters, decodeBus_write (by simp) (List.cons_ne_nil _ _)]
    unfold decodeWriteFrame
    rw [if_pos (by simp), commandAddr_commandByte]
    split
    · exact List.nil_subset _
    · split <;> exact List.Subset.refl _

/-! ### Columns and registers together -/

/-- What happens between s and t writes the columns `ws` and, of the reference chip's registers, those in R. -/
structure Writes (ws : List Column) (R : Nat → Prop) (s t : State) : Prop where
  only : WritesOnly ws s t
  memory : ∀ x, ¬ R x → Memory.read t.env.chip.creg x = Memory.read s.env.chip.creg x

namespace Writes
variable {ws vs : List Column} {R : Nat → Prop} {s t u : State}

theorem refl (ws : List Column) (R : Nat → Prop) (s : State) : Writes ws R s s := ⟨.refl ws s, fun _ _ => rfl⟩

/-- An update that leaves the environment writes no register. -/
theorem update (h : Writes ws R s t) (hu : WritesOnly vs t u) (hv : vs ⊆ ws) (he : u.env = t.env) : Writes ws R s u :=
  ⟨h.only.trans hu hv, fun x hx => by rw [he]; exact h.memory x hx⟩

theorem raise (h : Writes ws R s t) (o : OutcomeCode) (p : Phase) (sub : SubReason) : Writes ws R s (raise o p sub t) :=
  h.update (raise_writesOnly t o p sub) (List.nil_subset _) rfl

theorem modelFault (h : Writes ws R s t) (f : Fault) : Writes ws R s (modelFault f t) :=
  h.update (modelFault_writesOnly t f) (List.nil_subset _) rfl

theorem atPhase (h : Writes ws R s t) (p : Phase) : Writes ws R s (atPhase p t) :=
  h.update (atPhase_writesOnly t p) (List.nil_subset _) rfl

/-- A transaction writes CS, the environment and the registers of its frame. -/
theorem xfer (h : Writes ws R s t) (hw : [.cs, .environment] ⊆ ws) {mosi : List Byte}
    (hm : ∀ x ∈ writtenRegisters t.params mosi, R x) : Writes ws R s (xfer mosi t).2 :=
  ⟨h.only.trans (xfer_writesOnly t mosi) hw,
    fun x hx => (Env.busAnswer_creg (mt (hm x) hx)).trans (h.memory x hx)⟩

theorem sampleLine (h : Writes ws R s t) (hw : [.environment] ⊆ ws) : Writes ws R s (sampleLine t).2 :=
  ⟨h.only.trans (sampleLine_writesOnly t) hw,
    fun x hx => (congrArg (Memory.read · x) (Env.lineAnswer_creg t.params t.env)).trans (h.memory x hx)⟩

/-- A transaction at a phase, with what the operation goes on to do. -/
theorem xferAt (h : Writes ws R s t) (hw : [.cs, .environment] ⊆ ws) {p : Phase} {mosi : List Byte}
    {k : List Byte → State → State} (hm : ∀ x ∈ writtenRegisters t.params mosi, R x)
    (hk : ∀ miso u, u.params = t.params → Writes ws R s u → Writes ws R s (k miso u)) :
    Writes ws R s (xferAt p mosi t k) := by
  have hx : Writes ws R s (Machine.xfer mosi (Machine.atPhase p t)).2 := (h.atPhase p).xfer hw hm
  exact xferOr_cases (fun _ => hx.raise _ _ _) fun _ => hk _ _ rfl hx

/-- An operation writes what its body writes, and POLLS and RETRIES. -/
theorem admitOp (hc : [.counters] ⊆ ws) {refused : Bool} {arg : Option ArgOutcome} {g : Gate} {body : State → State}
    (hbody : Writes ws R s (beginOp s) → Writes ws R s (body (beginOp s))) :
    Writes ws R s (admitOp refused arg g s body) := by
  have hs := refl ws R s
  exact admitOp_cases (fun _ => hs) (fun _ _ => hs.modelFault _)
    (fun _ _ => hs.update (refuse_writesOnly s) (List.nil_subset _) rfl)
    (fun a _ _ _ => (hs.update (clearCounters_writesOnly s) hc rfl).raise a.outcome a.phase a.sub)
    (fun f _ _ _ _ => hs.modelFault f) fun _ _ _ _ => hbody (hs.update (beginOp_writesOnly s) hc rfl)

/-- The form of the frame statements. -/
theorem frame {xs : List Nat} (h : Writes ws (· ∈ xs) s t) : WritesOnly ws s t ∧ SameMemoryOutside xs s t :=
  ⟨h.only, h.memory⟩

end Writes

/-! ### The operations (R52) -/

/-- Settles O51: the pure operations each end with one store. -/
theorem pureOperationFrame : Obligations.PureOperationFrame := by
  intro s t
  refine ⟨fun dest d ht => ?_, fun r ht => ?_, fun v ht => ?_, fun d ht => ?_⟩ <;> cases ht <;>
    refine (Writes.admitOp (R := fun _ => False) (by decide) fun h => ?_).only
  · exact (h.update (storeFrame_writesOnly _ _) (by decide) rfl).raise _ _ _
  · exact (h.update (storeParsed_writesOnly _ _) (by decide) rfl).raise _ _ _
  · exact (h.update (storeDbm_writesOnly _ _) (by decide) rfl).raise _ _ _
  · exact (h.update (storeClass_writesOnly _ _) (by decide) rfl).raise _ _ _

theorem Writes.writeBody {ws : List Column} {R : Nat → Prop} {s t : State} (h : Writes ws R s t)
    (hw : [.cs, .environment] ⊆ ws) {frame : List Byte} (hm : ∀ x ∈ writtenRegisters t.params frame, R x) :
    Writes ws R s (writeBody frame t) :=
  h.xferAt hw hm fun _ _ _ hu => hu.raise _ _ _

theorem Writes.readBody {ws : List Column} {s t : State} (h : Writes ws (· ∈ []) s t)
    (hw : [.cs, .rdData, .environment] ⊆ ws) {frame : List Byte} (hm : writtenRegisters t.params frame = []) :
    Writes ws (· ∈ []) s (readBody frame t) :=
  h.xferAt (by simp_all) (by simp [hm]) fun _ u _ hu =>
    (hu.update (storeRead_writesOnly u _) (by simp_all) rfl).raise _ _ _

/-- Settles O49: a register access is one transaction, and the frame's format says which registers it writes. -/
theorem registerAccessFrame : Obligations.RegisterAccessFrame := by
  intro s t
  refine ⟨fun a v ht => Writes.frame ?_, fun a d ht => Writes.frame ?_, fun a n i hi ht => Writes.frame ?_⟩
  · cases ht
    exact .admitOp (by decide) fun h => h.writeBody (frame := frameWriteSingle a v) (by decide) (by simp)
  · cases ht
    exact .admitOp (by decide) fun h => h.writeBody (by decide) (writtenRegisters_frameWriteBurst s.params a d)
  · rcases hi with rfl | rfl | rfl <;> cases ht <;>
      exact .admitOp (by decide) fun h => h.readBody (by decide) (by simp)

theorem Writes.strobeBody {ws : List Column} {R : Nat → Prop} {s t : State} (h : Writes ws R s t)
    (hw : [.linkMode, .cs, .environment] ⊆ ws) (c : Strobe) : Writes ws R s (strobeBody c t) :=
  h.xferAt (by simp_all) (by simp) fun _ u _ hu =>
    (hu.update (recordStrobe_writesOnly u c) (by simp_all) rfl).raise _ _ _

theorem Writes.configWrites {ws : List Column} {R : Nat → Prop} {s : State} (hw : [.cs, .environment] ⊆ ws)
    {k : State → State} (hk : ∀ u, Writes ws R s u → Writes ws R s (k u)) (image : List (Addr × Byte)) :
    ∀ {i : Nat} {t : State}, Writes ws R s t → (∀ x ∈ image, R x.1.toNat) →
      Writes ws R s (configWrites i image t k) := by
  induction image with
  | nil => exact fun h _ => hk _ h
  | cons x image ih =>
    intro i t h hR
    exact h.xferAt hw (by simpa using hR x List.mem_cons_self) fun _ u _ hu =>
      ih hu fun y hy => hR y (List.mem_cons_of_mem _ hy)

/-- RESET's columns: its SRES is short, or the settle wait completes (R209). -/
theorem resetBody_writesOnly {ws : List Column} {s t : State} (h : WritesOnly ws s t)
    (hw : [.linkMode, .cs, .initialised, .configured, .environment] ⊆ ws) : WritesOnly ws s (resetBody t) := by
  have hpulse : WritesOnly ws s (csPulse (atPhase .rstPulse t)) :=
    (h.trans (atPhase_writesOnly _ _) (List.nil_subset _)).trans (csPulse_writesOnly _) (by simp_all)
  have hsres := (hpulse.trans (atPhase_writesOnly _ .rstSres) (List.nil_subset _)).trans
    (xfer_writesOnly _ (frameStrobe t.params.codeSres)) (by simp_all)
  rw [resetBody, sresThen]
  refine xferOr_cases (fun _ => ?_) fun _ => ?_
  · exact (hsres.trans (clearInitialised_writesOnly _) (by simp_all)).trans (raise_writesOnly _ _ _ _)
      (List.nil_subset _)
  · have hsettled := (hsres.trans (atPhase_writesOnly _ .rstSettle) (List.nil_subset _)).trans
      (waitSettle_writesOnly _) (by simp_all)
    exact (hsettled.trans (markReset_writesOnly _) (by simp_all)).trans (raise_writesOnly _ _ _ _) (List.nil_subset _)

theorem Writes.configureBody {ws : List Column} {R : Nat → Prop} {s t : State} (h : Writes ws R s t)
    (hw : [.localAddr, .cs, .configured, .environment] ⊆ ws) {image : List (Addr × Byte)}
    (hR : ∀ x ∈ image, R x.1.toNat) (la : Byte) : Writes ws R s (configureBody la image t) :=
  Writes.configWrites (by simp_all)
    (fun u hu => (hu.update (setLocalAddr_writesOnly u la) (by simp_all) rfl).raise _ _ _) image
    (h.update (clearConfigured_writesOnly t) (by simp_all) rfl) hR

/-- Settles O50: STROBE's transaction writes no register, CONFIGURE's those of its image, and RESET ends in its SRES or
after its settle wait. -/
theorem strobeResetConfigureFrame : Obligations.StrobeResetConfigureFrame := by
  intro s t
  refine ⟨fun code ht => Writes.frame ?_, fun ht => ?_, fun la image ht => Writes.frame ?_⟩
  · rw [exec, execStrobe] at ht
    cases hc : Strobe.ofCode s.params code with
    | none => rw [hc] at ht; cases ht; exact .admitOp (by decide) fun h => h
    | some c => rw [hc] at ht; cases ht; exact .admitOp (by decide) fun h => h.strobeBody (by decide) c
  · cases ht
    refine (Writes.admitOp (R := fun _ => True) (by decide) fun h => ?_).only
    exact ⟨resetBody_writesOnly h.only (by decide), fun _ hx => absurd trivial hx⟩
  · cases ht
    exact .admitOp (by decide) fun h => h.configureBody (by decide) (fun x hx => List.mem_map.2 ⟨x, hx, rfl⟩) la

end Sys2Proof.Machine
end

section
/-! PROOFS. SEND and RECEIVE transaction by transaction (43_link.md): each frame at its phase, in its LINK_MODE; what
the two operations leave unchanged (R52), and how a short transaction ends them (R288). -/

namespace Sys2Proof.Machine

/-- An unwritten LOCAL_ADDR is a fault at the address comparison (R402, log 15). -/
theorem receiveImage_unwritten {r : List Byte} {n : Nat} {s : State} (hm : imageMalformed r n = false)
    (hc : crcOk s.params (byteAt r ((byteAt r 0).toNat + 2)) = true) (hw : s.written.localAddr = false) :
    receiveImage r n s = modelFault .unwritten (atPhase .rAddr s) := by
  have hla : (atPhase .rAddr (atPhase .rCrc s)).readLocalAddr = none :=
    if_neg (by rw [Bool.not_eq_true]; exact hw)
  simp only [receiveImage, hm, atPhase_params, hc, hla]
  rfl

/-! ### The walk through a link operation -/

/-- After the events `base` the trace ends in a read of RXBYTES that gave c, and what lies between. -/
def CountSeen (base : List Event) (c : Byte) (s : State) : Prop :=
  ∃ es x, s.trace = base ++ es ++ statusRead s.params s.params.addrRxbytes x c

/-- After the events `base` the trace ends in a read of RXBYTES that gave the count n, and a read of MARCSTATE. -/
def CountStated (base : List Event) (n : Nat) (s : State) : Prop :=
  ∃ es x c z m, s.trace =
      base ++ es ++ statusRead s.params s.params.addrRxbytes x c ++ statusRead s.params s.params.addrMarcstate z m ∧
    n = rxCount s.params c

/-- I holds along a SEND or RECEIVE that began in LINK_MODE m₀ with the trace `base`, and P at its ends. Each
transaction sends the frame that `linkFrame` names at its phase, in the LINK_MODE of `linkModeAt`; the burst read comes
after the reads that `CountStated` tells. `on` are the phases spoken of. -/
structure LinkWalk (i : Instr) (m₀ : LinkMode) (base : List Event) (on : Phase → Prop) (I P : State → Prop) : Prop where
  extends_base : ∀ s, I s → base <+: s.trace
  phase : ∀ p s, I s → I (atPhase p s)
  answer : ∀ n mosi s, I s → linkFrame s.params n i s.phase = some mosi → I (xfer mosi s).2
  short : ∀ n mosi s, I s → on s.phase → linkFrame s.params n i s.phase = some mosi →
    s.linkMode = linkModeAt m₀ s.phase → (s.phase = .rBurst → CountStated base n s) →
    (xfer mosi s).1.length < mosi.length → P (busFault (xfer mosi s).2)
  ending : ∀ o p sub s, I s → o ≠ .busFault → P (raise o p sub s)
  mode : ∀ c s, I s → I (recordStrobe c s)
  line : ∀ s, I s → I (sampleLine s).2
  polls : ∀ n s, I s → I (setPolls n s)
  retries : ∀ n s, I s → I (setRetries n s)

namespace LinkWalk
variable {i : Instr} {m₀ m : LinkMode} {base : List Event} {on : Phase → Prop} {I P : State → Prop} {s : State}

theorem xferAt (h : LinkWalk i m₀ base on I P) {p : Phase} {n : Nat} {mosi : List Byte} {k : List Byte → State → State}
    (hp : on p) (hs : I s) (hm : s.linkMode = linkModeAt m₀ p) (hf : linkFrame s.params n i p = some mosi)
    (hc : p = .rBurst → CountStated base n s)
    (hk : ∀ miso t, miso.length = mosi.length → I t → t.linkMode = s.linkMode → t.params = s.params →
      t.trace = s.trace ++ transaction mosi miso → P (k miso t)) : P (xferAt p mosi s k) := by
  have hs' := h.phase p s hs
  exact xferOr_cases (fun hl => h.short n mosi _ hs' hp hf hm hc hl)
    fun hl => hk _ _ hl (h.answer n mosi _ hs' hf) rfl rfl (by rw [xfer_trace, transactionEvents_eq]; rfl)

theorem strobeAt (h : LinkWalk i m₀ base on I P) {p : Phase} {c : Strobe} {k : State → State}
    (hp : on p) (hs : I s) (hm : s.linkMode = linkModeAt m₀ p)
    (hf : linkFrame s.params 0 i p = some [c.code s.params]) (hb : p ≠ .rBurst)
    (hk : ∀ t, I t → t.linkMode = Strobe.modeAfter c (linkModeAt m₀ p) → P (k t)) : P (strobeAt p c s k) :=
  h.xferAt hp hs hm hf (fun he => absurd he hb) fun _ t _ ht hmode _ _ =>
    hk _ (h.mode c t ht) (congrArg (Strobe.modeAfter c) (hmode.trans hm))

theorem pollLoop (h : LinkWalk i m₀ base on I P) (level : Bool) (n : Nat) (hs : I s) (hm : s.linkMode = m) :
    I (pollLoop level n s).2 ∧ (pollLoop level n s).2.linkMode = m := by
  induction n generalizing s with
  | zero => exact ⟨hs, hm⟩
  | succ n ih =>
    have hs' := h.polls ((sampleLine s).2.polls + 1) _ (h.line s hs)
    rw [Machine.pollLoop]
    split
    · exact ⟨hs', hm⟩
    · exact ih hs' hm

theorem pollAt (h : LinkWalk i m₀ base on I P) {p : Phase} {level : Bool} {n : Nat} {onTimeout k : State → State}
    (hs : I s) (hm : s.linkMode = m) (ht : ∀ t, I t → t.linkMode = m → P (onTimeout t))
    (hk : ∀ t, I t → t.linkMode = m → P (k t)) : P (pollAt p level n s onTimeout k) := by
  have hpoll := h.pollLoop level n (h.polls 0 _ (h.phase p s hs)) hm
  rw [Machine.pollAt, pollUntil]
  revert hpoll
  rcases Machine.pollLoop level n (setPolls 0 (atPhase p s)) with ⟨_ | _, t⟩ <;> rintro ⟨hI, hmode⟩
  · exact ht t hI hmode
  · exact hk t hI hmode

/-! ### SEND (R272, R273) -/

section
variable {dest : Byte} {d : List Byte}

theorem txRecover (h : LinkWalk (.send dest d) m₀ base on I P) (hon : ∀ p, on p) (waiting : Phase) (hs : I s)
    (hm : s.linkMode = .tx) : P (txRecover waiting s) :=
  h.strobeAt (hon _) hs hm rfl nofun fun _ hs hm =>
  h.strobeAt (hon _) hs hm rfl nofun fun _ hs _ => h.ending _ _ _ _ hs nofun

theorem sendFinish (h : LinkWalk (.send dest d) m₀ base on I P) (hon : ∀ p, on p) (hs : I s)
    (hm : s.linkMode = .idle) : P (sendFinish s) := by
  unfold Machine.sendFinish
  split
  · exact h.strobeAt (hon _) hs hm rfl nofun fun _ hs hm =>
      h.strobeAt (hon _) hs hm rfl nofun fun _ hs _ => h.ending _ _ _ _ hs nofun
  · exact h.ending _ _ _ _ hs nofun

theorem sendBody (h : LinkWalk (.send dest d) m₀ base on I P) (hon : ∀ p, on p)
    (hs : I (storeFrame (frameOf dest d) s)) (hm : s.linkMode = m₀) : P (sendBody dest d s) :=
  h.strobeAt (hon _) hs hm rfl nofun fun _ hs hm =>
  h.strobeAt (hon _) hs hm rfl nofun fun s hs hm =>
  h.xferAt (n := 0) (hon _) hs hm (congrArg some (frameWriteBurst_frameOf s.params dest d).symm) nofun
    fun _ _ _ hs hmode _ _ =>
  h.strobeAt (hon _) hs (hmode.trans hm) rfl nofun fun _ hs hm =>
  h.pollAt hs hm (fun _ hs hm => h.txRecover hon _ hs hm) fun _ hs hm =>
  h.pollAt hs hm (fun _ hs hm => h.txRecover hon _ hs hm) fun _ hs hm =>
  h.strobeAt (hon _) hs hm rfl nofun fun _ hs hm =>
  h.strobeAt (hon _) hs hm rfl nofun fun _ hs hm => h.sendFinish hon hs hm

end

/-! ### RECEIVE (R275 to R287) -/

/-- The phases at which RECEIVE sends SIDLE, SFRX and SRX: at its start, after an overflow, in Resume. -/
def rxEntries : List (Phase × Phase × Phase) :=
  [(.rIdle, .rFlush, .rSrx), (.rOvfIdle, .rOvfFlush, .rOvfSrx), (.rResIdle, .rResFlush, .rResSrx)]

theorem enterRx (h : LinkWalk .receive m₀ base on I P) {p₁ p₂ p₃ : Phase} {k : State → State}
    (he : (p₁, p₂, p₃) ∈ rxEntries) (ho : on p₁ ∧ on p₂ ∧ on p₃) (hs : I s) (hm : s.linkMode = linkModeAt m₀ p₁)
    (hk : ∀ t, I t → t.linkMode = .rx → P (k t)) : P (enterRx p₁ p₂ p₃ s k) := by
  obtain ⟨ho₁, ho₂, ho₃⟩ := ho
  simp only [rxEntries, List.mem_cons, List.not_mem_nil, or_false, Prod.mk.injEq] at he
  rcases he with ⟨rfl, rfl, rfl⟩ | ⟨rfl, rfl, rfl⟩ | ⟨rfl, rfl, rfl⟩ <;>
    exact h.strobeAt ho₁ hs hm rfl nofun fun _ hs hm =>
      h.strobeAt ho₂ hs hm rfl nofun fun _ hs hm => h.strobeAt ho₃ hs hm rfl nofun hk

theorem readStatusAt (h : LinkWalk i m₀ base on I P) {p : Phase} {a : Addr} {k : Byte → State → State}
    (hp : on p) (hs : I s) (hm : s.linkMode = linkModeAt m₀ p)
    (hf : linkFrame s.params 0 i p = some (statusFrame s.params a)) (hb : p ≠ .rBurst)
    (hk : ∀ x v t, I t → t.linkMode = s.linkMode → t.params = s.params →
      t.trace = s.trace ++ statusRead s.params a x v → P (k v t)) : P (readStatusAt p a s k) := by
  refine h.xferAt hp hs hm (by rw [hf, frameReadStatus_eq]) (fun he => absurd he hb)
    fun miso t hl ht hmode hparams htrace => ?_
  obtain ⟨x, v, rfl⟩ := List.length_eq_two.1 hl
  exact hk x v t ht hmode hparams (by rw [htrace, frameReadStatus_eq])

/-- A read of RXBYTES is the last thing on the trace. -/
theorem countSeen (h : LinkWalk i m₀ base on I P) {t : State} {x c : Byte} (hs : I s) (hp : t.params = s.params)
    (ht : t.trace = s.trace ++ statusRead s.params s.params.addrRxbytes x c) : CountSeen base c t := by
  obtain ⟨es, hes⟩ := h.extends_base s hs
  exact ⟨es, x, by rw [ht, hp, hes]⟩

theorem countLoop (h : LinkWalk .receive m₀ base on I P) (hon : ∀ p, on p) {k : Byte → State → State} (n : Nat)
    {c₁ c₂ : Byte} (hs : I s) (hm : s.linkMode = .rx) (hc : CountSeen base c₂ s)
    (hk : ∀ c t, I t → t.linkMode = .rx → CountSeen base c t → P (k c t)) : P (countLoop n c₁ c₂ s k) := by
  induction n generalizing c₁ c₂ s with
  | zero =>
    rw [Machine.countLoop]
    split
    · exact hk _ _ hs hm hc
    · exact h.ending _ _ _ _ hs nofun
  | succ n ih =>
    rw [Machine.countLoop]
    split
    · exact hk _ _ hs hm hc
    · exact h.readStatusAt (hon _) hs hm rfl nofun fun _ _ _ ht hmode hp htrace =>
        ih (h.retries _ _ ht) (hmode.trans hm) (h.countSeen hs hp htrace)

theorem stableCount (h : LinkWalk .receive m₀ base on I P) (hon : ∀ p, on p) {k : Byte → State → State} (hs : I s)
    (hm : s.linkMode = .rx) (hk : ∀ c t, I t → t.linkMode = .rx → CountSeen base c t → P (k c t)) :
    P (stableCount s k) :=
  h.readStatusAt (hon _) hs hm rfl nofun fun _ _ _ ht hmode _ _ =>
  h.readStatusAt (hon _) ht (hmode.trans hm) rfl nofun fun _ _ u hu hmode' hp htrace =>
  h.countLoop hon _ (h.retries 0 u hu) (hmode'.trans (hmode.trans hm)) (h.countSeen ht hp htrace) hk

section
variable {onZ : Phase → Prop} {Z : State → Prop}
  (h : LinkWalk .receive m₀ base on I P) (hon : ∀ p, on p)
  (hz : LinkWalk .receive m₀ base onZ Z P) (honZ : onZ .rResIdle ∧ onZ .rResFlush ∧ onZ .rResSrx)
  (zero : ∀ s, I s → Z (zeroRxBuf s))
  (deliver : ∀ r s, I s → P (raise .ok .rDeliver .none (deliver r s)))
  (unwritten : ∀ s, I s → s.written.localAddr = false → P (modelFault .unwritten s))
include h hon hz honZ zero deliver unwritten

/-- From the image on; along CrcDiscard's Resume it is Z that holds. -/
theorem receiveImage (r : List Byte) (n : Nat) (hs : I s) (hm : s.linkMode = .rx) : P (receiveImage r n s) := by
  have hres : (Phase.rResIdle, Phase.rResFlush, Phase.rResSrx) ∈ rxEntries := by simp [rxEntries]
  by_cases hbad : imageMalformed r n = true ∨ crcOk s.params (byteAt r ((byteAt r 0).toNat + 2)) = false
  · rw [receiveImage_discard hbad]
    exact hz.enterRx hres honZ (zero _ (h.phase _ _ hs)) hm fun _ ht _ => hz.ending _ _ _ _ ht nofun
  · obtain ⟨hmal, hcrc⟩ := not_or.1 hbad
    rw [Bool.not_eq_true] at hmal
    rw [Bool.not_eq_false] at hcrc
    cases hw : s.written.localAddr with
    | false =>
      rw [receiveImage_unwritten hmal hcrc hw]
      exact unwritten _ (h.phase _ _ hs) hw
    | true =>
      have hla : s.readLocalAddr = some s.localAddr := by rw [State.readLocalAddr, if_pos hw]
      rw [receiveImage_passed hmal hcrc hla]
      split
      · exact h.enterRx hres ⟨hon _, hon _, hon _⟩ (h.phase _ _ hs) hm fun _ ht _ => deliver _ _ ht
      · exact h.enterRx hres ⟨hon _, hon _, hon _⟩ (h.phase _ _ hs) hm fun _ ht _ => h.ending _ _ _ _ ht nofun

theorem receiveCounted {c : Byte} (hs : I s) (hm : s.linkMode = .rx) (hc : CountSeen base c s) :
    P (receiveCounted (rxCount s.params c) s) := by
  by_cases hn : rxCount s.params c = 0
  · rw [hn, receiveCounted_zero]
    exact h.ending _ _ _ _ hs nofun
  rw [receiveCounted_pos hn]
  refine h.readStatusAt (hon _) hs hm rfl nofun fun z v t ht hmode hp htrace => ?_
  have hm' := hmode.trans hm
  have hovf : ∀ sub, P (overflow sub t) := fun sub =>
    h.enterRx (by simp [rxEntries]) ⟨hon _, hon _, hon _⟩ ht hm' fun _ hu _ => h.ending _ _ _ _ hu nofun
  rw [receiveStated]
  split
  · exact hovf _
  split
  · exact hovf _
  · obtain ⟨es, x, hes⟩ := hc
    have hstated : CountStated base (rxCount s.params c) t :=
      ⟨es, x, c, z, v, by rw [htrace, hes, hp], by rw [hp]⟩
    exact h.xferAt (hon _) ht hm' (congrArg some (frameReadBurst_fifo t.params _).symm) (fun _ => hstated)
      fun _ _ _ hu hmode' _ _ => h.receiveImage hon hz honZ zero deliver unwritten _ _ hu (hmode'.trans hm')

theorem receiveBody (hs : I (drawReceive s)) (hm : s.linkMode = m₀) : P (receiveBody s) :=
  h.enterRx (by simp [rxEntries]) ⟨hon _, hon _, hon _⟩ hs hm fun _ ht hm =>
  h.pollAt ht hm (fun _ hu _ => h.ending _ _ _ _ hu nofun) fun _ hu hm =>
  h.stableCount hon hu hm fun _ _ hv hm hc => h.receiveCounted hon hz honZ zero deliver unwritten hv hm hc

end

end LinkWalk

/-! ### What the link operations leave unchanged (R52) -/

/-- The formats of the frames that SEND and RECEIVE send (R125). -/
theorem linkFrame_format {p : Params} {n : Nat} {i : Instr} {ph : Phase} {mosi : List Byte}
    (h : linkFrame p n i ph = some mosi) :
    (∃ c, mosi = frameStrobe c) ∨ (∃ d, mosi = frameWriteBurst p.addrFifo d) ∨ (∃ a, mosi = frameReadStatus p a) ∨
      mosi = frameReadBurst p p.addrFifo n := by
  unfold linkFrame at h
  split at h <;> cases h
  case h_7.refl => exact .inr (.inl ⟨_, (frameWriteBurst_frameOf p _ _).symm⟩)
  case h_20.refl | h_21.refl | h_22.refl | h_23.refl => exact .inr (.inr (.inl ⟨_, (frameReadStatus_eq p _).symm⟩))
  case h_24.refl => exact .inr (.inr (.inr (frameReadBurst_fifo p n).symm))
  all_goals exact .inl ⟨_, rfl⟩

/-- No frame of SEND or RECEIVE writes a register. -/
theorem writtenRegisters_linkFrame {p : Params} {n : Nat} {i : Instr} {ph : Phase} {mosi : List Byte}
    (h : linkFrame p n i ph = some mosi) : writtenRegisters p mosi = [] := by
  obtain ⟨c, rfl⟩ | ⟨d, rfl⟩ | ⟨a, rfl⟩ | rfl := linkFrame_format h
  · exact writtenRegisters_frameStrobe p c
  · exact by simpa using writtenRegisters_frameWriteBurst p p.addrFifo d
  · exact writtenRegisters_frameReadStatus p a
  · exact writtenRegisters_frameReadBurst p p.addrFifo n

theorem linkWalk_writes {ws : List Column} (hw : [.linkMode, .cs, .counters, .environment] ⊆ ws) (i : Instr)
    (m₀ : LinkMode) (s₀ : State) :
    LinkWalk i m₀ [] (fun _ => True) (Writes ws (· ∈ []) s₀) (Writes ws (· ∈ []) s₀) where
  extends_base _ _ := List.nil_prefix
  phase p _ h := h.atPhase p
  answer _ _ _ h hf := h.xfer (by simp_all) (by simp [writtenRegisters_linkFrame hf])
  short _ _ _ h _ hf _ _ _ := (h.xfer (by simp_all) (by simp [writtenRegisters_linkFrame hf])).raise _ _ _
  ending o p sub _ h _ := h.raise o p sub
  mode c s h := h.update (recordStrobe_writesOnly s c) (by simp_all) rfl
  line _ h := h.sampleLine (by simp_all)
  polls n s h := h.update (setPolls_writesOnly s n) (by simp_all) rfl
  retries n s h := h.update (setRetries_writesOnly s n) (by simp_all) rfl

/-- Settles O52: along SEND and RECEIVE every frame is a `linkFrame`, and SIGNAL_STRENGTH reads one status register. -/
theorem linkOperationFrame : Obligations.LinkOperationFrame := by
  intro s t
  refine ⟨fun dest d ht => Writes.frame ?_, fun ht => Writes.frame ?_, fun ht => Writes.frame ?_⟩ <;> cases ht <;>
    refine .admitOp (by decide) fun h => ?_
  · exact (linkWalk_writes (by decide) (.send dest d) s.linkMode s).sendBody (fun _ => trivial)
      (h.update (storeFrame_writesOnly _ _) (by decide) rfl) rfl
  · have walk := linkWalk_writes (ws := [.linkMode, .cs, .rx, .counters, .environment]) (by decide) .receive s.linkMode s
    exact walk.receiveBody (fun _ => trivial) walk ⟨trivial, trivial, trivial⟩
      (fun u hu => hu.update (zeroRxBuf_writesOnly u) (by decide) rfl)
      (fun r u hu => (hu.update (deliver_writesOnly u r) (by decide) rfl).raise _ _ _)
      (fun u hu _ => hu.modelFault _) (h.update (drawReceive_writesOnly _) (by decide) rfl) rfl
  · exact h.xferAt (by decide) (by simp) fun _ u _ hu =>
      (((hu.update (storeRaw_writesOnly u _) (by decide) rfl).update (storeDbm_writesOnly _ _) (by decide) rfl).update
        (storeClass_writesOnly _ _) (by decide) rfl).raise _ _ _

/-! ### BUS_FAULT (R288) -/

/-- The last thing on t's trace is the frame that operation i sends at DETAIL's phase, cut short. -/
def ShortFrameLast (i : Instr) (s t : State) : Prop :=
  t.detail.sub = .none ∧ t.linkMode = linkModeAt s.linkMode t.detail.phase ∧
  ∃ es mosi miso count, linkFrame s.params count i t.detail.phase = some mosi ∧ miso.length < mosi.length ∧
    t.trace = s.trace ++ es ++ transaction mosi miso ∧ framedFrom false es = true ∧
    (t.detail.phase = .rBurst → ∃ es' x c z m,
      es = es' ++ statusRead s.params s.params.addrRxbytes x c ++ statusRead s.params s.params.addrMarcstate z m ∧
      count = (c &&& s.params.rxbytesCountMask).toNat)

/-- A link operation that began in s stands in t, its trace framed, LOCAL_ADDR and the receive outputs those of o. -/
structure LinkRun (s o t : State) : Prop where
  params : t.params = s.params
  trace : ∃ es, t.trace = s.trace ++ es ∧ framedFrom false es = true
  localAddr : Same o t .localAddr
  rx : Same o t .rx

/-- Events that are framed in themselves may follow. -/
theorem LinkRun.append {s o t u : State} {vs : List Column} {es : List Event} (h : LinkRun s o t)
    (hu : WritesOnly vs t u) (hl : .localAddr ∉ vs) (hrx : .rx ∉ vs) (ht : u.trace = t.trace ++ es)
    (hes : framedFrom false es = true) : LinkRun s o u := by
  obtain ⟨hsame, hparams, -⟩ := hu
  obtain ⟨fs, hfs, hframed⟩ := h.trace
  refine ⟨hparams.trans h.params, ⟨fs ++ es, ?_, ?_⟩, h.localAddr.trans (hsame _ hl), h.rx.trans (hsame _ hrx)⟩
  · rw [ht, hfs, List.append_assoc]
  · rw [framedFrom_append hframed, hes]

/-- Along a link operation its frames are properly sent, so that a short one is the last thing on the trace. -/
theorem linkWalk_shortFrameLast {i : Instr} {s o : State} {on : Phase → Prop} {P : State → Prop}
    (fault : ∀ t, ShortFrameLast i s t → on t.detail.phase → Same o t .rx → P t)
    (other : ∀ t, t.outcome ≠ .busFault → P t) : LinkWalk i s.linkMode s.trace on (LinkRun s o) P where
  extends_base _ h := by
    obtain ⟨es, hes, -⟩ := h.trace
    exact ⟨es, hes.symm⟩
  phase _ _ h := { h with }
  answer _ mosi t h _ :=
    h.append (xfer_writesOnly t mosi) (by decide) (by decide) (by rw [xfer_trace, transactionEvents_eq])
      (framedFrom_transaction _ _)
  short n mosi t h hon hf hmode hcount hshort := by
    obtain ⟨es, hes, hframed⟩ := h.trace
    rw [h.params] at hf
    refine fault _ ⟨rfl, hmode, es, mosi, (xfer mosi t).1, n, hf, hshort, ?_, hframed, fun hp => ?_⟩ hon h.rx
    · rw [busFault, raise_trace, xfer_trace, transactionEvents_eq, hes]
      rfl
    · obtain ⟨es', x, c, z, m, htrace, hn⟩ := hcount hp
      rw [hes, h.params, List.append_assoc, List.append_assoc, List.append_cancel_left_eq] at htrace
      rw [h.params] at hn
      exact ⟨es', x, c, z, m, by rw [htrace, List.append_assoc], hn⟩
  ending _ _ _ _ _ ho := other _ ho
  mode _ _ h := { h with }
  line t h := h.append (sampleLine_writesOnly t) (by decide) (by decide) rfl rfl
  polls _ _ h := { h with }
  retries _ _ h := { h with }

/-- The outputs of R288's RECEIVE: the draws of entry, but for the zeros that CrcDiscard's Resume keeps. -/
def OutputsAfterFault (s t : State) : Prop :=
  HeaderDrawn s.rxDraws t ∧ (t.rxBuf = drawnBuf s.params.rxBufLen s.rxDraws ∨
    t.detail.phase ∈ [Phase.rResIdle, .rResFlush, .rResSrx] ∧ t.rxBuf = List.replicate s.params.rxBufLen 0x00)

theorem sendBody_shortFrameLast {dest : Byte} {d : List Byte} (s : State)
    (hfault : (sendBody dest d (beginOp s)).outcome = .busFault) :
    ShortFrameLast (.send dest d) s (sendBody dest d (beginOp s)) := by
  have walk : LinkWalk (.send dest d) s.linkMode s.trace (fun _ => True)
      (LinkRun s (storeFrame (frameOf dest d) (beginOp s)))
      (fun t => t.outcome = .busFault → ShortFrameLast (.send dest d) s t) :=
    linkWalk_shortFrameLast (fun _ h _ _ _ => h) fun _ ho he => absurd he ho
  exact walk.sendBody (fun _ => trivial) ⟨rfl, ⟨[], by simp [framedFrom]⟩, .refl _ _, .refl _ _⟩ rfl hfault

/-- What R288 says of a RECEIVE that began in s and ended in BUS_FAULT in t. -/
def ReceiveFaulted (s t : State) : Prop := ShortFrameLast .receive s t ∧ OutputsAfterFault s t

/-- Up to the image's check the outputs are the draws of entry. -/
theorem linkWalk_receiveFaulted (s : State) :
    LinkWalk .receive s.linkMode s.trace (fun _ => True) (LinkRun s (drawReceive (beginOp s)))
      (fun t => t.outcome = .busFault → ReceiveFaulted s t) :=
  linkWalk_shortFrameLast (fun t h _ hrx _ => by
    obtain ⟨hlen, haddr, hbuf, hrssi, hst, hw, -⟩ := hrx
    exact ⟨h, ⟨hlen, haddr, hrssi, hst, hw⟩, .inl hbuf⟩) fun _ ho he => absurd he ho

/-- In CrcDiscard's Resume RX_BUF is zero. -/
theorem linkWalk_receiveFaulted_zero (s : State) :
    LinkWalk .receive s.linkMode s.trace (· ∈ [Phase.rResIdle, .rResFlush, .rResSrx])
      (LinkRun s (zeroRxBuf (drawReceive (beginOp s)))) (fun t => t.outcome = .busFault → ReceiveFaulted s t) :=
  linkWalk_shortFrameLast (fun t h hp hrx _ => by
    obtain ⟨hlen, haddr, hbuf, hrssi, hst, hw, -⟩ := hrx
    exact ⟨h, ⟨hlen, haddr, hrssi, hst, hw⟩, .inr ⟨hp, hbuf⟩⟩) fun _ ho he => absurd he ho

theorem LinkRun.zeroRxBuf {s t : State} (h : LinkRun s (drawReceive (beginOp s)) t) :
    LinkRun s (zeroRxBuf (drawReceive (beginOp s))) (zeroRxBuf t) := by
  obtain ⟨hlen, haddr, -, hrest⟩ := h.rx
  have hsize : t.params.rxBufLen = s.params.rxBufLen := congrArg Params.rxBufLen h.params
  exact { h with rx := ⟨hlen, haddr, congrArg (List.replicate · 0) hsize, hrest⟩ }

theorem receiveBody_faulted {s : State} (hla : s.written.localAddr = true)
    (hfault : (receiveBody (beginOp s)).outcome = .busFault) : ReceiveFaulted s (receiveBody (beginOp s)) := by
  refine (linkWalk_receiveFaulted s).receiveBody (fun _ => trivial) (linkWalk_receiveFaulted_zero s) (by simp)
    (fun _ ht => ht.zeroRxBuf) (fun _ _ _ he => nomatch he) (fun t ht hw => ?_)
    ⟨rfl, ⟨[], by simp [framedFrom]⟩, .refl _ _, .refl _ _⟩ rfl hfault
  exact absurd (hw.symm.trans (ht.localAddr.2.trans hla)) Bool.false_ne_true

/-- The only argument outcome of SEND (R248). -/
theorem outcome_of_sizeArg {m : Nat} {d : List Byte} {a : ArgOutcome} (h : sizeArg m d = some a) :
    a.outcome = .payloadTooLarge := by
  unfold sizeArg at h
  split at h <;> cases h
  rfl

/-- Settles O58: a configured block has a LOCAL_ADDR, and along either operation a short frame is the last. -/
theorem linkBusFaultIsLast : Obligations.LinkBusFaultIsLast := by
  intro i s t hinv hs hi ht hfault
  obtain ⟨⟨hready, hinit⟩, hconf⟩ := hs
  rcases hi with rfl | ⟨dest, d, rfl⟩
  · rw [exec_receive ⟨⟨hready, hinit⟩, hconf⟩] at ht
    cases ht
    obtain ⟨⟨hsub, hmode, hlast⟩, hout⟩ := receiveBody_faulted (hinv.run.configured hconf).2 hfault
    exact ⟨hsub, hmode, hlast, fun _ => hout⟩
  · cases hsize : sizeArg s.params.maxFrame d with
    | some a =>
      rw [exec, execSend, hsize, admitOp_argument hready] at ht
      cases ht
      exact absurd ((outcome_of_sizeArg hsize).symm.trans hfault) nofun
    | none =>
      rw [exec, execSend, hsize, admitOp_run hready (gateFault_link hinit hconf)] at ht
      cases ht
      obtain ⟨hsub, hmode, hlast⟩ := sendBody_shortFrameLast s hfault
      exact ⟨hsub, hmode, hlast, nofun⟩

end Sys2Proof.Machine
end

section
/-! PROOFS. The bus trace (20_memory.md R90, R92, R99, R456): every step appends events that are framed in
themselves. -/

namespace Sys2Proof.Machine

/-- From s to t the parameters stay, and the trace grows by events that are framed in themselves. -/
structure FramedSince (s t : State) : Prop where
  params : t.params = s.params
  trace : ∃ es, t.trace = s.trace ++ es ∧ framedFrom false es = true

namespace FramedSince
variable {s t u : State}

theorem refl (s : State) : FramedSince s s := ⟨rfl, [], (List.append_nil _).symm, rfl⟩

theorem append {es : List Event} (h : FramedSince s t) (hp : u.params = t.params) (ht : u.trace = t.trace ++ es)
    (hes : framedFrom false es = true) : FramedSince s u := by
  obtain ⟨fs, hfs, hframed⟩ := h.trace
  exact ⟨hp.trans h.params, fs ++ es, by rw [ht, hfs, List.append_assoc], (framedFrom_append hframed).trans hes⟩

theorem atPhase (h : FramedSince s t) (p : Phase) : FramedSince s (atPhase p t) := { h with }

theorem storeBusData (h : FramedSince s t) (d : List Byte) : FramedSince s (storeBusData d t) := { h with }

/-! ### The updates that put events on the trace -/

theorem xfer (h : FramedSince s t) (mosi : List Byte) : FramedSince s (xfer mosi t).2 :=
  h.append rfl (by rw [xfer_trace, transactionEvents_eq]) (framedFrom_transaction _ _)

theorem sampleLine (h : FramedSince s t) : FramedSince s (sampleLine t).2 := h.append rfl rfl rfl

theorem csPulse (h : FramedSince s t) : FramedSince s (csPulse t) := h.append rfl rfl rfl

theorem waitSettle (h : FramedSince s t) : FramedSince s (waitSettle t) := h.append rfl rfl rfl

/-! ### RESET (R209) -/

theorem settleBody (h : FramedSince s t) : FramedSince s (settleBody t) :=
  have hsettled := (h.atPhase .rstSettle).waitSettle
  { hsettled with }

theorem sresThen (h : FramedSince s t) {k : State → State} (hk : ∀ u, FramedSince s u → FramedSince s (k u)) :
    FramedSince s (sresThen t k) :=
  have hsent := (h.atPhase .rstSres).xfer (frameStrobe t.params.codeSres)
  xferOr_cases (fun _ => { hsent with }) fun _ => hk _ hsent

theorem resetBody (h : FramedSince s t) : FramedSince s (resetBody t) :=
  (h.atPhase .rstPulse).csPulse.sresThen fun _ hu => hu.settleBody

end FramedSince

/-! ### Instructions -/

theorem samples_framedSince (s : State) : Samples (FramedSince s) (FramedSince s) where
  toTransacts := .keeping (fun _ _ h => { h with }) (fun mosi _ h => h.xfer mosi) fun _ _ _ _ h => { h with }
  mode _ _ h := { h with }
  line _ h := h.sampleLine
  polls _ _ h := { h with }
  retries _ _ h := { h with }

theorem framedSince_receiveBody {s t : State} (h : FramedSince s t) : FramedSince s (receiveBody t) :=
  (samples_framedSince s).receiveBody (size := s.params.rxBufLen) (fun _ hu => { hu with }) (fun _ hu => { hu with })
    (fun _ hu => congrArg Params.rxBufLen hu.params) (fun _ _ _ hu => { hu with }) (fun _ hu _ => { hu with }) h

/-- Every host operation that executes appends framed events. -/
theorem framedSince_body {i : Instr} {p : Params} {s t : State} (h : FramedSince s t) :
    FramedSince s ((admission p i).body t) := by
  have samples := samples_framedSince s
  have keeps := samples.toTransacts
  cases i with
  | wreg | wburst => exact keeps.writeBody h
  | rreg | rstatus | rburst => exact keeps.readBody (fun _ _ hu => { hu with }) h
  | strobe code =>
    rw [admission]
    cases Strobe.ofCode p code with
    | none => exact h
    | some c => exact samples.strobeBody h
  | reset => exact h.resetBody
  | configure la image => exact keeps.configWrites 0 image { h with } fun _ hu => { hu with }
  | send => exact samples.sendBody { h with }
  | receive => exact framedSince_receiveBody h
  | signalStrength =>
    exact keeps.signalBody (fun _ _ hu => { hu with }) (fun _ _ hu => { hu with }) (fun _ _ hu => { hu with }) h
  | buildFrame | parseFrame | rssiDecode | classify => exact { h with }
  | _ => exact h

theorem framedSince_admitOp {refused : Bool} {arg : Option ArgOutcome} {g : Gate} {s : State} {body : State → State}
    (hbody : ∀ t, FramedSince s t → FramedSince s (body t)) : FramedSince s (admitOp refused arg g s body) :=
  have h := FramedSince.refl s
  admitOp_cases (fun _ => h) (fun _ _ => { h with }) (fun _ _ => { h with }) (fun _ _ _ _ => { h with })
    (fun _ _ _ _ _ => { h with }) fun _ _ _ _ => hbody _ { h with }

/-- Every bus command that is performed appends framed events. -/
theorem framedSince_command {i : Instr} {p : Params} {s : State} : FramedSince s ((command p i).body s) := by
  have h := FramedSince.refl s
  have keeps := (samples_framedSince s).toStrobes
  have strobe : ∀ c, FramedSince s ((Command.strobe c).body s) := fun c => keeps.strobeThen h fun _ hu => hu
  cases i with
  | busWriteSingle | busWriteBurst | busFifoWrite => exact keeps.xferThen h fun _ _ _ hu => hu
  | busReadSingle | busReadStatus | busReadBurst | busFifoRead | busReadRssi | busReadMarcstate | busReadRxbytes =>
    exact keeps.xferThen h fun _ _ _ hu => hu.storeBusData _
  | busSres =>
    have hbusy : FramedSince s (setBusy s) := { h with }
    exact hbusy.sresThen fun _ hu => hu.atPhase _
  | busSrx | busStx | busSidle | busSfrx | busSftx => exact strobe _
  | _ => exact h

theorem framedSince_admitBus {ok needsInit : Bool} {s : State} {body : State → State}
    (hbody : FramedSince s (body s)) : FramedSince s (admitBus ok needsInit s body) :=
  have h := FramedSince.refl s
  admitBus_cases (fun _ => h) (fun _ _ => { h with }) (fun _ _ _ => { h with }) (fun _ _ _ _ _ => { h with })
    fun _ _ _ _ => hbody

theorem framedSince_exec {i : Instr} {s t : State} (ht : exec i s = .next t) : FramedSince s t := by
  cases hi : i.isBus with
  | false =>
    rw [exec_host hi] at ht
    cases ht
    exact framedSince_admitOp fun _ hu => framedSince_body hu
  | true =>
    rw [exec_bus hi] at ht
    cases ht
    exact framedSince_admitBus framedSince_command

/-! ### Steps -/

theorem framedSince_stepFrame {frame : List Byte} {s t : State} (ht : stepFrame frame s = .next t) :
    FramedSince s t := by
  unfold stepFrame at ht
  split at ht
  · exact framedSince_exec ht
  · cases ht
    exact framedSince_admitBus (.refl s)

/-- Taking the bytes of an operation leaves the trace. -/
theorem framedSince_stepHost {s t : State} (ht : stepHost s = .next t) : FramedSince s t := by
  unfold stepHost at ht
  split at ht
  · exact { framedSince_exec ht with }
  · cases ht
    exact { framedSince_admitOp (s := leaveHost _ s) (body := id) fun _ hu => hu with }

theorem framedSince_stepIdle {s t : State} (ht : stepIdle s = .next t) : FramedSince s t := by
  cases ht
  split
  · exact (FramedSince.refl s).settleBody
  · exact .refl s

theorem framedSince_step {s t : State} (ht : step s = .next t) : FramedSince s t := by
  cases hb : s.busIn with
  | cons frame later =>
    rw [step_of_frame hb] at ht
    exact { framedSince_stepFrame ht with }
  | nil =>
    by_cases hh : s.hostIn = []
    · rw [step_of_idle hb hh] at ht
      exact framedSince_stepIdle ht
    · rw [step_of_host hb hh] at ht
      exact framedSince_stepHost ht

/-- Settles O55: a step appends events that are framed in themselves, and framed traces join. -/
theorem traceStaysFramed : Obligations.TraceStaysFramed := by
  intro s t hs ht
  obtain ⟨es, hes, hframed⟩ := (framedSince_step ht).trace
  exact ⟨⟨es, hes⟩, by rw [hes, framedFrom_append hs, hframed]⟩

end Sys2Proof.Machine
end

section
/-! PROOFS. What is not admitted (R81, R203, R371, R403), and the bus commands: each one transaction of its frame
(R125, R160), and what they leave unchanged. -/

namespace Sys2Proof.Machine

/-! ### Operands that are not admitted -/

/-- A host operation whose operands are not admitted is refused (R403). -/
theorem admission_refused_eq_true {p : Params} {i : Instr} (hi : i.isBus = false) (h : ¬ Admitted p i) :
    (admission p i).refused = true := by
  cases i with
  | wreg | rreg => exact congrArg not (eq_false_of_ne_true (mt isConfigAddr_iff.1 h))
  | rstatus => exact congrArg not (eq_false_of_ne_true (mt isStatusRegister_iff.1 h))
  | wburst | rburst => exact congrArg not (eq_false_of_ne_true (mt burstAddrOk_iff.1 h))
  | configure => exact congrArg not (eq_false_of_ne_true (mt imageOk_iff.1 h))
  | strobe code => rw [admission, Strobe.ofCode_eq_none.2 h, strobeAdmission]
  | reset | buildFrame | parseFrame | send | receive | signalStrength | rssiDecode | classify => exact absurd trivial h
  | _ => cases hi

/-- A bus command whose operands are not admitted is none the block sends (log 13). -/
theorem command_ok_eq_false {p : Params} {i : Instr} (hi : i.isBus = true) (h : ¬ Admitted p i) :
    (command p i).ok = false := by
  cases i with
  | busWriteSingle | busReadSingle => exact eq_false_of_ne_true (mt isConfigAddr_iff.1 h)
  | busReadStatus => exact eq_false_of_ne_true (mt isStatusRegister_iff.1 h)
  | busWriteBurst | busReadBurst => exact eq_false_of_ne_true (mt busBurstOk_iff.1 h)
  | busFifoWrite | busFifoRead => exact eq_false_of_ne_true (mt busBurstOk_fifo.1 h)
  | busReadRssi | busReadMarcstate | busReadRxbytes | busSres | busSrx | busStx | busSidle | busSfrx | busSftx =>
    exact absurd trivial h
  | _ => cases hi

theorem admitBus_refused {needsInit : Bool} {s : State} {body : State → State} (hf : s.faulted = false) :
    admitBus false needsInit s body = refuse s := by
  simp [admitBus, hf]

/-- Settles O14: each admission refuses such operands before it looks at anything but FAULTED and, for a host
operation, BUSY. -/
theorem refusedOperationsChangeNothing : Obligations.RefusedOperationsChangeNothing := by
  intro i s hf hbusy h
  cases hi : i.isBus with
  | false => rw [exec_host hi, admission_refused_eq_true hi h, admitOp_refused ⟨hf, hbusy hi⟩, refuse]
  | true => rw [exec_bus hi, command_ok_eq_false hi h, admitBus_refused hf, refuse]

/-! ### Complete commands -/

/-- A transaction in the current phase whose answer is known and complete. -/
theorem xferThen_complete {mosi miso : List Byte} {e : Env} {s : State} {k : List Byte → State → State}
    (h : s.busAnswer mosi = (miso, e)) (hl : miso.length = mosi.length) :
    xferThen mosi s k = k miso (moved mosi miso e s) := xferOr_complete h hl

/-- A bus command whose entry is a write of the frame, its answer known and complete. -/
theorem exec_write_complete {i : Instr} {mosi miso : List Byte} {e : Env} {s : State} (hs : CommandReady s)
    (hi : i.isBus = true) (hc : command s.params i = .write true mosi) (h : s.busAnswer mosi = (miso, e))
    (hl : miso.length = mosi.length) : exec i s = .next (moved mosi miso e s) := by
  rw [exec_bus hi, hc, Command.write, admitBus_run hs]
  dsimp only
  rw [xferThen_complete h hl]

/-- A bus command whose entry is a read of the frame, its answer known and complete. -/
theorem exec_read_complete {i : Instr} {mosi miso : List Byte} {e : Env} {s : State} (hs : CommandReady s)
    (hi : i.isBus = true) (hc : command s.params i = .read true mosi) (h : s.busAnswer mosi = (miso, e))
    (hl : miso.length = mosi.length) : exec i s = .next (storeBusData (miso.drop 1) (moved mosi miso e s)) := by
  rw [exec_bus hi, hc, Command.read, admitBus_run hs]
  dsimp only
  rw [xferThen_complete h hl]

/-- Settles O44: the entry of each write command is the write of its frame. -/
theorem busWritesComplete : Obligations.BusWritesComplete := by
  intro i mosi miso e s hs hi h hl
  have hcommand : i.isBus = true ∧ command s.params i = .write true mosi := by
    rcases hi with ⟨a, v, rfl, ha, rfl⟩ | ⟨a, d, rfl, hpos, hmax, ha, rfl⟩ | ⟨d, rfl, hpos, hmax, rfl⟩ <;>
      refine ⟨rfl, ?_⟩
    · rw [command, isConfigAddr_iff.2 ha, frameWriteSingle, commandByte_write]
    · rw [command, busBurstOk_iff.2 ⟨⟨hpos, hmax⟩, ha⟩, frameWriteBurst, commandByte_writeBurst]
    · rw [command, busBurstOk_fifo.2 ⟨hpos, hmax⟩, frameWriteBurst, commandByte_writeBurst]
  exact exec_write_complete hs hcommand.1 hcommand.2 h hl

/-- Settles O45: the entry of each read command is the read of its frame. -/
theorem busReadsComplete : Obligations.BusReadsComplete := by
  intro i mosi d m₀ e s hs hi h hl
  have hcommand : i.isBus = true ∧ command s.params i = .read true mosi := by
    rcases hi with ⟨a, rfl, ha, rfl⟩ | ⟨a, rfl, ha, rfl⟩ | ⟨a, n, rfl, hpos, hmax, ha, rfl⟩ |
      ⟨n, rfl, hpos, hmax, rfl⟩ | ⟨rfl, rfl⟩ | ⟨rfl, rfl⟩ | ⟨rfl, rfl⟩ <;> refine ⟨rfl, ?_⟩
    · rw [command, isConfigAddr_iff.2 ha, frameReadSingle, commandByte_read]
    · rw [command, isStatusRegister_iff.2 ha, frameReadStatus_eq]
    · rw [command, busBurstOk_iff.2 ⟨⟨hpos, hmax⟩, ha⟩, frameReadBurst, commandByte_readBurst, dummies]
    · rw [command, busBurstOk_fifo.2 ⟨hpos, hmax⟩, frameReadBurst_fifo]
    all_goals rw [command, frameReadStatus_eq]
  exact exec_read_complete hs hcommand.1 hcommand.2 h hl

/-! ### What the commands leave unchanged (R160, R200) -/

theorem setBusy_writesOnly (s : State) : WritesOnly [] s (setBusy s) :=
  .of_fields

theorem storeBusData_writesOnly (s : State) (d : List Byte) : WritesOnly [.busData] s (storeBusData d s) :=
  .of_fields

/-- A write to the FIFO writes no register (R103). -/
@[simp] theorem writtenRegisters_frameWriteBurst_fifo (p : Params) (d : List Byte) :
    writtenRegisters p (frameWriteBurst p.addrFifo d) = [] := by
  simpa using writtenRegisters_frameWriteBurst p p.addrFifo d

namespace Writes
variable {ws : List Column} {R : Nat → Prop} {s : State}

/-- A bus command writes what its body writes. -/
theorem admitBus {ok needsInit : Bool} {body : State → State} (hbody : Writes ws R s (body s)) :
    Writes ws R s (admitBus ok needsInit s body) := by
  have hs := refl ws R s
  exact admitBus_cases (fun _ => hs) (fun _ _ => hs.update (refuse_writesOnly s) (List.nil_subset _) rfl)
    (fun _ _ _ => hs.modelFault _) (fun _ _ _ _ _ => hs.modelFault _) fun _ _ _ _ => hbody

/-- The transaction of a bus command, with what a complete one adds. -/
theorem busTransaction {ok needsInit : Bool} {mosi : List Byte} {k : List Byte → State → State}
    (hw : [.cs, .environment] ⊆ ws) (hm : ∀ x ∈ writtenRegisters s.params mosi, R x)
    (hk : ∀ miso u, Writes ws R s u → Writes ws R s (k miso u)) :
    Writes ws R s (Machine.admitBus ok needsInit s fun s => xferThen mosi s k) :=
  have hx := (refl ws R s).xfer hw hm
  admitBus (xferOr_cases (fun _ => hx.raise _ _ _) fun _ => hk _ _ hx)

theorem busWrite {ok : Bool} {frame : List Byte} (hm : ∀ x ∈ writtenRegisters s.params frame, R x) :
    Writes [.cs, .environment] R s (busWrite ok frame s) :=
  busTransaction (by decide) hm fun _ _ hu => hu

theorem busRead {ok : Bool} {frame : List Byte} (hm : writtenRegisters s.params frame = []) :
    Writes [.cs, .busData, .environment] (· ∈ []) s (busRead ok frame s) :=
  busTransaction (by decide) (by simp [hm]) fun _ u hu => hu.update (storeBusData_writesOnly u _) (by decide) rfl

theorem busStrobe (c : Strobe) : Writes [.linkMode, .cs, .environment] (· ∈ []) s (busStrobe c s) :=
  busTransaction (by decide) (by simp) fun _ u hu => hu.update (recordStrobe_writesOnly u c) (by decide) rfl

/-- SRES up to the settle wait (R209). -/
theorem busSres {ok needsInit : Bool} : Writes [.cs, .initialised, .configured, .environment] (· ∈ []) s
    (Machine.admitBus ok needsInit s fun s => sresThen (setBusy s) (Machine.atPhase .rstSettle)) := by
  have hsent := (((refl _ (· ∈ []) s).update (setBusy_writesOnly s) (List.nil_subset _) rfl).atPhase .rstSres).xfer
    (ws := [.cs, .initialised, .configured, .environment]) (mosi := frameStrobe s.params.codeSres) (by decide) (by simp)
  exact admitBus (xferOr_cases
    (fun _ => (hsent.update (clearInitialised_writesOnly _) (by decide) rfl).raise _ _ _) fun _ => hsent.atPhase _)

end Writes

/-- Settles O53: each command is one transaction, and the frame's format says which registers it writes. -/
theorem busCommandFrame : Obligations.BusCommandFrame := by
  intro s t
  refine ⟨fun a v ht => Writes.frame ?_, fun a d ht => Writes.frame ?_, fun d ht => Writes.frame ?_,
    fun a n i hi ht => Writes.frame ?_, fun i hi ht => Writes.frame ?_, fun ht => Writes.frame ?_⟩
  · cases ht
    exact .busWrite (by simp)
  · cases ht
    exact .busWrite (writtenRegisters_frameWriteBurst s.params a d)
  · cases ht
    exact .busWrite (by simp)
  · simp only [List.mem_cons, List.not_mem_nil, or_false] at hi
    rcases hi with rfl | rfl | rfl | rfl | rfl | rfl | rfl <;> cases ht <;> exact .busRead (by simp)
  · simp only [List.mem_cons, List.not_mem_nil, or_false] at hi
    rcases hi with rfl | rfl | rfl | rfl | rfl <;> cases ht <;> exact .busStrobe _
  · cases ht
    exact .busSres

end Sys2Proof.Machine
end

section
/-! PROOFS. The bus decoder read backwards: a frame that spells a bus command is that command's encoding (R124,
R125). -/

namespace Sys2Proof

/-- Frames of one byte (FST). -/
theorem encode_of_decodeStrobeFrame {p : Params} {c : Byte} {i : Instr} (h : decodeStrobeFrame p c = .instr i) :
    encode p i = [c] := by
  unfold decodeStrobeFrame at h
  split at h
  · rename_i hc
    cases h
    rw [hc]
    rfl
  · cases hk : Strobe.ofCode p c with
    | none => rw [hk] at h; cases h
    | some k =>
      rw [hk] at h
      have hcode := Machine.Strobe.code_ofCode hk
      cases k <;> cases h <;> exact congrArg frameStrobe hcode

/-- A command byte by its fields (R124). -/
theorem commandByte_of_fields {c : Byte} {r b : Bool} (hr : commandRead c = r) (hb : commandBurst c = b) :
    commandByte r b (commandAddr c) = c := by
  rw [← hr, ← hb, commandByte_fields]

/-- Write frames (FW1, FWB). -/
theorem encode_of_decodeWriteFrame {p : Params} {c : Byte} {d : List Byte} {i : Instr} (hc : commandRead c = false)
    (h : decodeWriteFrame p c d = .instr i) : encode p i = c :: d := by
  unfold decodeWriteFrame at h
  cases hb : commandBurst c with
  | true =>
    rw [if_pos hb] at h
    have hcmd := commandByte_of_fields hc hb
    split at h
    · cases h
    split at h <;> cases h
    · rename_i hfifo
      rw [encode, frameWriteBurst, ← hfifo, hcmd]
    · rw [encode, frameWriteBurst, hcmd]
  | false =>
    rw [if_neg (by simp [hb])] at h
    split at h <;> cases h
    rw [encode, frameWriteSingle, commandByte_of_fields hc hb]

/-- The row of a status register's read does not change its frame (R130). -/
theorem encode_decodeStatusRead (p : Params) (a : Addr) : encode p (decodeStatusRead p a) = frameReadStatus p a := by
  unfold decodeStatusRead
  split_ifs with hrssi hmarc hrx
  · rw [encode, hrssi]
  · rw [encode, hmarc]
  · rw [encode, hrx]
  · rfl

/-- Read frames (FR1, FRS, FRB). -/
theorem encode_of_decodeReadFrame {p : Params} {c : Byte} {n : Nat} {i : Instr} (hc : commandRead c = true)
    (h : decodeReadFrame p c n = .instr i) : encode p i = c :: dummies p n := by
  unfold decodeReadFrame at h
  cases hb : commandBurst c with
  | true =>
    rw [if_pos hb] at h
    have hcmd := commandByte_of_fields hc hb
    split at h
    · cases h
    split at h
    · rename_i hfifo
      cases h
      rw [encode, frameReadBurst, ← hfifo, hcmd]
    split at h
    · split at h <;> cases h
      rename_i hn
      rw [encode_decodeStatusRead, frameReadStatus, hcmd, hn]
      rfl
    · cases h
      rw [encode, frameReadBurst, hcmd]
  | false =>
    rw [if_neg (by simp [hb])] at h
    split at h <;> cases h
    rename_i hn
    rw [encode, frameReadSingle, commandByte_of_fields hc hb, hn]
    rfl

/-- A frame is the encoding of the bus command it spells. -/
theorem encode_of_decodeBus {p : Params} {frame : List Byte} {i : Instr} (h : decodeBus p frame = .instr i) :
    encode p i = frame := by
  match frame, h with
  | [], h => cases h
  | [_], h => exact encode_of_decodeStrobeFrame h
  | c :: b :: rest, h =>
    rw [decodeBus] at h
    cases hc : commandRead c with
    | true =>
      rw [if_pos hc] at h
      split at h
      · rename_i hd
        rw [encode_of_decodeReadFrame hc h, hd]
      · cases h
    | false =>
      rw [if_neg (by simp [hc])] at h
      exact encode_of_decodeWriteFrame hc h

end Sys2Proof
end

section
/-! PROOFS. The reference transceiver: it answers whole transactions (R101), and configuration registers read back
(R102). -/

namespace Sys2Proof.Machine

/-! ### Whole answers (R101) -/

@[simp] theorem Chip.readRegisters_length (c : Chip) (a n : Nat) : (c.readRegisters a n).length = n := by
  induction n generalizing a with
  | zero => rfl
  | succ n ih => rw [Chip.readRegisters, List.length_cons, ih]

@[simp] theorem Chip.fifoRead_length (c : Chip) (n : Nat) : (c.fifoRead n).1.length = n := by
  simp only [Chip.fifoRead, List.length_append, List.length_take, List.length_replicate]
  omega

/-- The chip answers every byte after the command byte. -/
theorem Chip.transact_length (p : Params) (c : Chip) (mosi : List Byte) :
    (c.transact p mosi).1.length = mosi.length - 1 := by
  unfold Chip.transact
  cases hd : decodeBus p mosi with
  | rejected why => exact List.length_replicate
  | instr i =>
    have hmosi := encode_of_decodeBus hd
    subst hmosi
    cases i with
    | busReadSingle => rfl
    | busReadBurst a n => exact (Chip.readRegisters_length _ _ _).trans (dummies_length p n).symm
    | busFifoRead n => exact (Chip.fifoRead_length _ _).trans (dummies_length p n).symm
    | busReadStatus | busReadRssi | busReadMarcstate | busReadRxbytes => rfl
    | busSrx | busStx | busSidle | busSfrx | busSftx => rfl
    | _ => exact List.length_replicate

/-! ### Registers read back (R102) -/

/-- What a read returns is a matter of CREG and the defaults alone. -/
theorem Chip.readRegisters_congr {c c' : Chip} (hcreg : c'.creg = c.creg) (hera : c'.era = c.era) (a n : Nat) :
    c'.readRegisters a n = c.readRegisters a n := by
  induction n generalizing a with
  | zero => rfl
  | succ n ih => rw [Chip.readRegisters, Chip.readRegisters, Chip.register, Chip.register, hcreg, hera, ih]

/-- Registers written within the configuration registers read back. -/
theorem Chip.readRegisters_writeRegisters {p : Params} {c : Chip} {a : Nat} {d : List Byte}
    (h : a + d.length ≤ p.configLast.toNat + 1) : (c.writeRegisters p a d).readRegisters a d.length = d := by
  induction d generalizing c a with
  | nil => rfl
  | cons v d ih =>
    rw [List.length_cons] at h
    have hfirst : Memory.read (Chip.writeRegisters p { c with creg := Memory.write c.creg a v } (a + 1) d).creg a =
        some v :=
      (Chip.writeRegisters_read_outside (.inl (Nat.lt_succ_self a))).trans (Memory.read_write_same _ _ _)
    rw [Chip.writeRegisters, if_pos (by omega), List.length_cons, Chip.readRegisters, Chip.register, hfirst,
      ih (by omega)]

/-- The write of configuration registers in one transaction. -/
theorem Chip.answer_frameWriteBurst {p : Params} {c : Chip} {a : Addr} {d : List Byte} (ha : a ≠ p.addrFifo)
    (hd : burstFits p d.length) :
    (c.answer p (frameWriteBurst a d)).2 = (c.listen p).writeRegisters p a.toNat d := by
  simp only [Chip.answer, Chip.transact, decodeBus_frameWriteBurst hd, if_neg ha]

/-- The read of registers in one transaction. -/
theorem Chip.answer_frameReadBurst {p : Params} {c : Chip} {a : Addr} {n : Nat} (ha : a ≠ p.addrFifo)
    (hstatus : ¬ isStatusAddr p a) (hn : burstFits p n) :
    (c.answer p (frameReadBurst p a n)).1 = 0x00 :: c.readRegisters a.toNat n := by
  simp only [Chip.answer, Chip.transact, decodeBus_frameReadBurst_register ha hstatus hn]
  exact congrArg (0x00 :: ·) (Chip.readRegisters_congr (Chip.listen_creg p c) (Chip.listen_era p c) _ _)

/-- Settles O60: an answer is as long as its frame by the frame's format, and a burst's registers read back. -/
theorem referenceTransceiverAnswers : Obligations.ReferenceTransceiverAnswers := by
  refine ⟨fun p c mosi hne => ⟨?_, rfl⟩, fun p c a d hpos hmax hlast ha hstatus => ?_⟩
  · rw [Chip.answer, List.length_cons, Chip.transact_length]
    exact Nat.sub_add_cancel (List.length_pos_of_ne_nil hne)
  · rw [← commandByte_writeBurst, ← commandByte_readBurst]
    show ((c.answer p (frameWriteBurst a d)).2.answer p (frameReadBurst p a d.length)).1 = _
    rw [Chip.answer_frameReadBurst ha hstatus ⟨hpos, hmax⟩, Chip.answer_frameWriteBurst ha ⟨hpos, hmax⟩,
      Chip.readRegisters_writeRegisters hlast]

end Sys2Proof.Machine
end

section
/-! PROOFS. The host encoding (30_encoding.md section 5): the host decoder forwards, backwards and on what it refuses,
one lemma per operation's arguments for each of the three. -/

namespace Sys2Proof

/-! ### Addresses, counts and pairs (R136, R137) -/

theorem withAddress_addressByte (a : Addr) (rest : List Byte) (k : Addr → HostDecoded) :
    withAddress (addressByte a) rest k = k a := by
  simp only [withAddress, addressOf_addressByte]

/-- An address byte with bits 7..6 set is refused. -/
theorem withAddress_wide {b : Byte} (hb : 64 ≤ b.toNat) (rest : List Byte) (k : Addr → HostDecoded) :
    withAddress b rest k = .rejected (.addressBits b) rest := by
  simp only [withAddress, addressOf_eq_none.2 hb]

theorem withAddress_eq_instr {b : Byte} {rest rest' : List Byte} {k : Addr → HostDecoded} {i : Instr}
    (h : withAddress b rest k = .instr i rest') : ∃ a, b = addressByte a ∧ k a = .instr i rest' := by
  unfold withAddress at h
  split at h
  · exact ⟨_, addressOf_eq_some ‹_›, h⟩
  · cases h

/-- A counted sequence, after its count byte. -/
theorem takeBytes_countByte {d : List Byte} (hd : countFits d.length) (rest : List Byte) :
    takeBytes (countByte d.length).toNat (d ++ rest) = some (d, rest) := by
  rw [countByte_toNat hd, takeBytes_append]

/-- The count byte of the bytes it counts. -/
theorem countByte_length_of_takeBytes {n : Byte} {t d rest : List Byte} (h : takeBytes n.toNat t = some (d, rest)) :
    t = d ++ rest ∧ countByte d.length = n ∧ countFits d.length := by
  obtain ⟨ht, hlen⟩ := takeBytes_eq_some h
  have := n.isLt
  exact ⟨ht, by rw [hlen, countByte_of_toNat], by rw [hlen]; omega⟩

theorem takePairs_flatMap (ps : List (Byte × Byte)) (rest : List Byte) :
    takePairs ps.length ((ps.flatMap fun x => [x.1, x.2]) ++ rest) = some (ps, rest) := by
  induction ps with
  | nil => rfl
  | cons x ps ih => simp [takePairs, ih]

/-- An address byte with bits 7..6 set, in any of CONFIGURE's pairs. -/
theorem addressPairs_wide {ps : List (Byte × Byte)} (h : ∃ x ∈ ps, 64 ≤ x.1.toNat) :
    ∃ b, addressPairs ps = .error b := by
  cases hp : addressPairs ps with
  | error b => exact ⟨b, rfl⟩
  | ok image =>
    obtain ⟨x, hx, hwide⟩ := h
    rw [addressPairs_eq_ok hp] at hx
    obtain ⟨y, -, rfl⟩ := List.mem_map.1 hx
    have := y.1.isLt
    rw [addressByte_toNat] at hwide
    omega

/-! ### Encoded operations decode (R136) -/

/-- Settles O1, by the operation: its address and count bytes read back, and its counted bytes are taken off. -/
theorem hostEncodingRoundTrips : Obligations.HostEncodingRoundTrips := by
  intro p i rest hwf hi
  cases i with
  | wreg a v => exact withAddress_addressByte a rest _
  | wburst a d =>
    show decodeWburst (addressByte a :: countByte d.length :: (d ++ rest)) = _
    rw [decodeWburst, takeBytes_countByte hwf]
    exact withAddress_addressByte a rest _
  | rreg a => exact withAddress_addressByte a rest _
  | rstatus a => exact withAddress_addressByte a rest _
  | rburst a n => exact withAddress_addressByte a rest _
  | strobe | reset | receive | signalStrength | rssiDecode => rfl
  | configure la image =>
    show decodeConfigure (la :: countByte image.length :: (encodePairs image ++ rest)) = _
    rw [decodeConfigure, countByte_toNat hwf, takePairs_append]
    dsimp only
    rw [addressPairs_bytePairs]
  | buildFrame dest d =>
    show decodeBuildFrame (dest :: countByte d.length :: (d ++ rest)) = _
    rw [decodeBuildFrame, takeBytes_countByte hwf]
  | parseFrame r =>
    show decodeParseFrame (countByte r.length :: (r ++ rest)) = _
    rw [decodeParseFrame, takeBytes_countByte hwf]
  | send dest d =>
    show decodeSend (dest :: countByte d.length :: (d ++ rest)) = _
    rw [decodeSend, takeBytes_countByte hwf]
  | classify d =>
    have hd : d.extractLsb' 8 8 ++ d.extractLsb' 0 8 = d :=
      (BitVec.extractLsb'_append_extractLsb'_eq_extractLsb' (Nat.zero_add 8).symm).trans BitVec.extractLsb'_eq_self
    exact congrArg (HostDecoded.instr · rest) (congrArg Instr.classify hd)
  | _ => cases hi

/-- Settles O4: each word is run through its decoder. -/
theorem writtenOutWordsDecode : Obligations.WrittenOutWordsDecode := by
  unfold Obligations.WrittenOutWordsDecode
  and_intros <;> rfl

/-! ### Bytes that decode are an encoding -/

/-- What `dec` makes of the bytes after the opcode `op` is the operation that these bytes encode. -/
def InvertsEncoding (op : Byte) (dec : List Byte → HostDecoded) : Prop :=
  ∀ (p : Params) (t rest : List Byte) (i : Instr), dec t = .instr i rest →
    op :: t = encode p i ++ rest ∧ i.WellFormed p ∧ i.isBus = false

theorem invertsEncoding_decodeWreg : InvertsEncoding 0x01 decodeWreg := by
  intro p t rest i h
  match t, h with
  | [], h | [_], h => cases h
  | b :: v :: t, h =>
    obtain ⟨a, rfl, hk⟩ := withAddress_eq_instr h
    cases hk
    exact ⟨rfl, trivial, rfl⟩

theorem invertsEncoding_decodeWburst : InvertsEncoding 0x02 decodeWburst := by
  intro p t rest i h
  match t, h with
  | [], h | [_], h => cases h
  | b :: n :: t, h =>
    rw [decodeWburst] at h
    split at h
    · obtain ⟨rfl, hcount, hfits⟩ := countByte_length_of_takeBytes ‹_›
      obtain ⟨a, rfl, hk⟩ := withAddress_eq_instr h
      cases hk
      exact ⟨by rw [encode, hcount]; rfl, hfits, rfl⟩
    · cases h

theorem invertsEncoding_decodeRreg : InvertsEncoding 0x03 decodeRreg := by
  intro p t rest i h
  match t, h with
  | [], h => cases h
  | b :: t, h =>
    obtain ⟨a, rfl, hk⟩ := withAddress_eq_instr h
    cases hk
    exact ⟨rfl, trivial, rfl⟩

theorem invertsEncoding_decodeRstatus : InvertsEncoding 0x04 decodeRstatus := by
  intro p t rest i h
  match t, h with
  | [], h => cases h
  | b :: t, h =>
    obtain ⟨a, rfl, hk⟩ := withAddress_eq_instr h
    cases hk
    exact ⟨rfl, trivial, rfl⟩

theorem invertsEncoding_decodeRburst : InvertsEncoding 0x05 decodeRburst := by
  intro p t rest i h
  match t, h with
  | [], h | [_], h => cases h
  | b :: n :: t, h =>
    obtain ⟨a, rfl, hk⟩ := withAddress_eq_instr h
    cases hk
    exact ⟨rfl, trivial, rfl⟩

theorem invertsEncoding_decodeStrobe : InvertsEncoding 0x06 decodeStrobe := by
  intro p t rest i h
  cases t <;> cases h
  exact ⟨rfl, trivial, rfl⟩

theorem invertsEncoding_decodeConfigure : InvertsEncoding 0x08 decodeConfigure := by
  intro p t rest i h
  match t, h with
  | [], h | [_], h => cases h
  | la :: m :: t, h =>
    rw [decodeConfigure] at h
    split at h
    · rename_i ps rest' hps
      split at h <;> cases h
      rename_i image himage
      obtain ⟨rfl, hlen⟩ := takePairs_eq_some hps
      rw [addressPairs_eq_ok himage] at hlen ⊢
      have hlen : image.length = m.toNat := by rw [← hlen, bytePairs, List.length_map]
      have := m.isLt
      refine ⟨?_, show image.length ≤ 255 by omega, rfl⟩
      rw [encode, encodePairs_eq, hlen, countByte_of_toNat]
      rfl
    · cases h

theorem invertsEncoding_decodeBuildFrame : InvertsEncoding 0x09 decodeBuildFrame := by
  intro p t rest i h
  match t, h with
  | [], h | [_], h => cases h
  | dest :: n :: t, h =>
    rw [decodeBuildFrame] at h
    split at h <;> cases h
    obtain ⟨rfl, hcount, hfits⟩ := countByte_length_of_takeBytes ‹_›
    exact ⟨by rw [encode, hcount]; rfl, hfits, rfl⟩

theorem invertsEncoding_decodeParseFrame : InvertsEncoding 0x0A decodeParseFrame := by
  intro p t rest i h
  match t, h with
  | [], h => cases h
  | c :: t, h =>
    rw [decodeParseFrame] at h
    split at h <;> cases h
    obtain ⟨rfl, hcount, hfits⟩ := countByte_length_of_takeBytes ‹_›
    exact ⟨by rw [encode, hcount]; rfl, hfits, rfl⟩

theorem invertsEncoding_decodeSend : InvertsEncoding 0x0B decodeSend := by
  intro p t rest i h
  match t, h with
  | [], h | [_], h => cases h
  | dest :: n :: t, h =>
    rw [decodeSend] at h
    split at h <;> cases h
    obtain ⟨rfl, hcount, hfits⟩ := countByte_length_of_takeBytes ‹_›
    exact ⟨by rw [encode, hcount]; rfl, hfits, rfl⟩

theorem invertsEncoding_decodeRssiDecode : InvertsEncoding 0x0E decodeRssiDecode := by
  intro p t rest i h
  cases t <;> cases h
  exact ⟨rfl, trivial, rfl⟩

theorem invertsEncoding_decodeClassify : InvertsEncoding 0x0F decodeClassify := by
  intro p t rest i h
  match t, h with
  | [], h | [_], h => cases h
  | hi :: lo :: t, h =>
    cases h
    exact ⟨by rw [encode, BitVec.extractLsb'_append_eq_left, BitVec.extractLsb'_append_eq_right]; rfl, trivial, rfl⟩

/-- The operations without arguments. -/
theorem invertsEncoding_bare {op : Byte} {i : Instr} (h : ∀ p, encode p i = [op] ∧ i.WellFormed p)
    (hi : i.isBus = false) : InvertsEncoding op (.instr i) := by
  intro p t rest j hj
  cases hj
  obtain ⟨henc, hwf⟩ := h p
  exact ⟨by rw [henc]; rfl, hwf, hi⟩

theorem InvertsEncoding.of_opcode {k op : Byte} {dec : List Byte → HostDecoded} (hd : InvertsEncoding k dec)
    (hop : op.toNat = k.toNat) {t rest : List Byte} {i : Instr} (h : dec t = .instr i rest) (p : Params) :
    op :: t = encode p i ++ rest ∧ i.WellFormed p ∧ i.isBus = false := by
  rw [BitVec.eq_of_toNat_eq hop]
  exact hd p t rest i h

/-- Host bytes are the encoding of the well-formed operation they spell, and what follows it. -/
theorem encode_of_decodeHost {bs rest : List Byte} {i : Instr} (h : decodeHost bs = .instr i rest) (p : Params) :
    bs = encode p i ++ rest ∧ i.WellFormed p ∧ i.isBus = false := by
  cases bs with
  | nil => cases h
  | cons op t =>
    unfold decodeHost at h
    dsimp only at h
    split at h <;> rename_i hop
    · exact invertsEncoding_decodeWreg.of_opcode hop h p
    · exact invertsEncoding_decodeWburst.of_opcode hop h p
    · exact invertsEncoding_decodeRreg.of_opcode hop h p
    · exact invertsEncoding_decodeRstatus.of_opcode hop h p
    · exact invertsEncoding_decodeRburst.of_opcode hop h p
    · exact invertsEncoding_decodeStrobe.of_opcode hop h p
    · exact (invertsEncoding_bare (op := 0x07) (i := .reset) (fun _ => ⟨rfl, trivial⟩) rfl).of_opcode hop h p
    · exact invertsEncoding_decodeConfigure.of_opcode hop h p
    · exact invertsEncoding_decodeBuildFrame.of_opcode hop h p
    · exact invertsEncoding_decodeParseFrame.of_opcode hop h p
    · exact invertsEncoding_decodeSend.of_opcode hop h p
    · exact (invertsEncoding_bare (op := 0x0C) (i := .receive) (fun _ => ⟨rfl, trivial⟩) rfl).of_opcode hop h p
    · exact (invertsEncoding_bare (op := 0x0D) (i := .signalStrength) (fun _ => ⟨rfl, trivial⟩) rfl).of_opcode hop h p
    · exact invertsEncoding_decodeRssiDecode.of_opcode hop h p
    · exact invertsEncoding_decodeClassify.of_opcode hop h p
    · cases h

/-! ### Frames that decode are well formed (R125, R128, R130) -/

/-- Frames of one byte: the strobes have no operands. -/
theorem wellFormed_of_decodeStrobeFrame {p : Params} {c : Byte} {i : Instr} (h : decodeStrobeFrame p c = .instr i) :
    i.WellFormed p ∧ i.isBus = true := by
  unfold decodeStrobeFrame at h
  split at h
  · cases h
    exact ⟨trivial, rfl⟩
  · split at h <;> cases h <;> exact ⟨trivial, rfl⟩

/-- Write frames: a burst within the FIFO, at the row of its address. -/
theorem wellFormed_of_decodeWriteFrame {p : Params} {c : Byte} {d : List Byte} {i : Instr} (hd : 1 ≤ d.length)
    (h : decodeWriteFrame p c d = .instr i) : i.WellFormed p ∧ i.isBus = true := by
  unfold decodeWriteFrame at h
  split at h
  · split at h
    · cases h
    have hfits : burstFits p d.length := ⟨hd, Nat.le_of_not_lt ‹_›⟩
    split at h <;> cases h
    · exact ⟨hfits, rfl⟩
    · exact ⟨⟨‹_›, hfits⟩, rfl⟩
  · split at h <;> cases h
    exact ⟨trivial, rfl⟩

/-- Each status register is read by its own row, if it has one. -/
theorem wellFormed_decodeStatusRead {p : Params} {a : Addr} (ha : isStatusAddr p a) :
    (decodeStatusRead p a).WellFormed p ∧ (decodeStatusRead p a).isBus = true := by
  unfold decodeStatusRead
  split_ifs with hrssi hmarc hrx
  · exact ⟨trivial, rfl⟩
  · exact ⟨trivial, rfl⟩
  · exact ⟨trivial, rfl⟩
  · exact ⟨⟨ha, not_or.2 ⟨hrssi, not_or.2 ⟨hmarc, hrx⟩⟩⟩, rfl⟩

/-- Read frames: a burst within the FIFO, at the row of its address. -/
theorem wellFormed_of_decodeReadFrame {p : Params} {c : Byte} {n : Nat} {i : Instr} (hn : 1 ≤ n)
    (h : decodeReadFrame p c n = .instr i) : i.WellFormed p ∧ i.isBus = true := by
  unfold decodeReadFrame at h
  split at h
  · split at h
    · cases h
    have hfits : burstFits p n := ⟨hn, Nat.le_of_not_lt ‹_›⟩
    split at h
    · cases h
      exact ⟨hfits, rfl⟩
    split at h
    · split at h <;> cases h
      exact wellFormed_decodeStatusRead ‹_›
    · cases h
      exact ⟨⟨‹_›, ‹_›, hfits⟩, rfl⟩
  · split at h <;> cases h
    exact ⟨trivial, rfl⟩

theorem wellFormed_of_decodeBus {p : Params} {frame : List Byte} {i : Instr} (h : decodeBus p frame = .instr i) :
    i.WellFormed p ∧ i.isBus = true := by
  match frame, h with
  | [], h => cases h
  | [_], h => exact wellFormed_of_decodeStrobeFrame h
  | c :: b :: rest, h =>
    have hpos : 1 ≤ (b :: rest).length := Nat.succ_pos _
    rw [decodeBus] at h
    split at h
    · split at h
      · exact wellFormed_of_decodeReadFrame hpos h
      · cases h
    · exact wellFormed_of_decodeWriteFrame hpos h

/-- Settles O3: each decoder is read backwards, operation by operation and format by format. -/
theorem decodedBytesAreTheEncoding : Obligations.DecodedBytesAreTheEncoding :=
  ⟨fun p _ _ _ h => encode_of_decodeHost h p,
    fun _ _ _ h => ⟨(encode_of_decodeBus h).symm, wellFormed_of_decodeBus h⟩⟩

/-! ### Bytes that follow an operation

A decoder reads the bytes of its operation and no more: unless they are too few, what follows only stays behind. -/

/-- The same answer, with more bytes left behind. -/
def HostDecoded.followedBy (more : List Byte) : HostDecoded → HostDecoded
  | .instr i rest => .instr i (rest ++ more)
  | .rejected why rest => .rejected why (rest ++ more)

/-- On the bytes t the decoder runs out of bytes, or reads no byte that follows them. -/
def ReadsItsOwn (dec : List Byte → HostDecoded) (t : List Byte) : Prop :=
  dec t = .rejected .truncated [] ∨ ∀ more, dec (t ++ more) = (dec t).followedBy more

theorem withAddress_followedBy (b : Byte) (rest more : List Byte) (f : Addr → Instr) :
    withAddress b (rest ++ more) (fun a => .instr (f a) (rest ++ more)) =
      (withAddress b rest fun a => .instr (f a) rest).followedBy more := by
  unfold withAddress
  split <;> rfl

theorem takeBytes_followed {n : Nat} {t d rest : List Byte} (h : takeBytes n t = some (d, rest)) (more : List Byte) :
    takeBytes n (t ++ more) = some (d, rest ++ more) := by
  obtain ⟨rfl, rfl⟩ := takeBytes_eq_some h
  rw [List.append_assoc, takeBytes_append]

theorem takePairs_followed {m : Nat} {t rest : List Byte} {ps : List (Byte × Byte)}
    (h : takePairs m t = some (ps, rest)) (more : List Byte) : takePairs m (t ++ more) = some (ps, rest ++ more) := by
  obtain ⟨rfl, rfl⟩ := takePairs_eq_some h
  rw [List.append_assoc, takePairs_flatMap]

theorem readsItsOwn_decodeWreg (t : List Byte) : ReadsItsOwn decodeWreg t :=
  match t with
  | [] | [_] => .inl rfl
  | b :: v :: t => .inr fun more => withAddress_followedBy b t more (.wreg · v)

theorem readsItsOwn_decodeWburst (t : List Byte) : ReadsItsOwn decodeWburst t := by
  match t with
  | [] | [_] => exact .inl rfl
  | b :: n :: t =>
    cases h : takeBytes n.toNat t with
    | none => exact .inl (by rw [decodeWburst, h])
    | some x =>
      refine .inr fun more => ?_
      rw [List.cons_append, List.cons_append, decodeWburst, takeBytes_followed h, decodeWburst, h]
      exact withAddress_followedBy b x.2 more (.wburst · x.1)

theorem readsItsOwn_decodeRreg (t : List Byte) : ReadsItsOwn decodeRreg t :=
  match t with
  | [] => .inl rfl
  | b :: t => .inr fun more => withAddress_followedBy b t more .rreg

theorem readsItsOwn_decodeRstatus (t : List Byte) : ReadsItsOwn decodeRstatus t :=
  match t with
  | [] => .inl rfl
  | b :: t => .inr fun more => withAddress_followedBy b t more .rstatus

theorem readsItsOwn_decodeRburst (t : List Byte) : ReadsItsOwn decodeRburst t :=
  match t with
  | [] | [_] => .inl rfl
  | b :: n :: t => .inr fun more => withAddress_followedBy b t more (.rburst · n)

theorem readsItsOwn_decodeStrobe (t : List Byte) : ReadsItsOwn decodeStrobe t :=
  match t with
  | [] => .inl rfl
  | _ :: _ => .inr fun _ => rfl

theorem readsItsOwn_decodeConfigure (t : List Byte) : ReadsItsOwn decodeConfigure t := by
  match t with
  | [] | [_] => exact .inl rfl
  | la :: m :: t =>
    cases h : takePairs m.toNat t with
    | none => exact .inl (by rw [decodeConfigure, h])
    | some x =>
      refine .inr fun more => ?_
      rw [List.cons_append, List.cons_append, decodeConfigure, takePairs_followed h, decodeConfigure, h]
      dsimp only
      cases addressPairs x.1 <;> rfl

theorem readsItsOwn_decodeBuildFrame (t : List Byte) : ReadsItsOwn decodeBuildFrame t := by
  match t with
  | [] | [_] => exact .inl rfl
  | dest :: n :: t =>
    cases h : takeBytes n.toNat t with
    | none => exact .inl (by rw [decodeBuildFrame, h])
    | some x =>
      refine .inr fun more => ?_
      rw [List.cons_append, List.cons_append, decodeBuildFrame, takeBytes_followed h, decodeBuildFrame, h]
      rfl

theorem readsItsOwn_decodeParseFrame (t : List Byte) : ReadsItsOwn decodeParseFrame t := by
  match t with
  | [] => exact .inl rfl
  | c :: t =>
    cases h : takeBytes c.toNat t with
    | none => exact .inl (by rw [decodeParseFrame, h])
    | some x =>
      refine .inr fun more => ?_
      rw [List.cons_append, decodeParseFrame, takeBytes_followed h, decodeParseFrame, h]
      rfl

theorem readsItsOwn_decodeSend (t : List Byte) : ReadsItsOwn decodeSend t := by
  match t with
  | [] | [_] => exact .inl rfl
  | dest :: n :: t =>
    cases h : takeBytes n.toNat t with
    | none => exact .inl (by rw [decodeSend, h])
    | some x =>
      refine .inr fun more => ?_
      rw [List.cons_append, List.cons_append, decodeSend, takeBytes_followed h, decodeSend, h]
      rfl

theorem readsItsOwn_decodeRssiDecode (t : List Byte) : ReadsItsOwn decodeRssiDecode t :=
  match t with
  | [] => .inl rfl
  | _ :: _ => .inr fun _ => rfl

theorem readsItsOwn_decodeClassify (t : List Byte) : ReadsItsOwn decodeClassify t :=
  match t with
  | [] | [_] => .inl rfl
  | _ :: _ :: _ => .inr fun _ => rfl

theorem readsItsOwn_decodeHost {bs : List Byte} (h : bs ≠ []) : ReadsItsOwn decodeHost bs := by
  obtain ⟨op, t, rfl⟩ := List.exists_cons_of_ne_nil h
  unfold ReadsItsOwn
  simp only [List.cons_append]
  unfold decodeHost
  dsimp only
  split
  · exact readsItsOwn_decodeWreg t
  · exact readsItsOwn_decodeWburst t
  · exact readsItsOwn_decodeRreg t
  · exact readsItsOwn_decodeRstatus t
  · exact readsItsOwn_decodeRburst t
  · exact readsItsOwn_decodeStrobe t
  · exact .inr fun _ => rfl
  · exact readsItsOwn_decodeConfigure t
  · exact readsItsOwn_decodeBuildFrame t
  · exact readsItsOwn_decodeParseFrame t
  · exact readsItsOwn_decodeSend t
  · exact .inr fun _ => rfl
  · exact .inr fun _ => rfl
  · exact readsItsOwn_decodeRssiDecode t
  · exact readsItsOwn_decodeClassify t
  · exact .inr fun _ => rfl

/-- An encoding cut short is truncated: otherwise the bytes cut off would stay behind when the whole decodes. -/
theorem decodeHost_take {p : Params} {i : Instr} {n : Nat} (hwf : i.WellFormed p) (hi : i.isBus = false) (hpos : 0 < n)
    (hn : n < (encode p i).length) : decodeHost ((encode p i).take n) = .rejected .truncated [] := by
  have hne : (encode p i).take n ≠ [] := List.ne_nil_of_length_pos (by rw [List.length_take]; omega)
  refine (readsItsOwn_decodeHost hne).resolve_right fun hmore => ?_
  have hwhole := hostEncodingRoundTrips p i [] hwf hi
  rw [List.append_nil, ← List.take_append_drop n (encode p i), hmore] at hwhole
  have hdrop : (encode p i).drop n ≠ [] := List.ne_nil_of_length_pos (by rw [List.length_drop]; omega)
  cases hd : decodeHost ((encode p i).take n) with
  | rejected why rest => rw [hd] at hwhole; cases hwhole
  | instr j rest =>
    rw [hd, HostDecoded.followedBy, HostDecoded.instr.injEq] at hwhole
    exact hdrop (List.append_eq_nil_iff.1 hwhole.2).2

/-! ### Bytes that are refused (R137, R138) -/

theorem decodeHost_reserved {op : Byte} (h : op = 0x00 ∨ 0x10 ≤ op.toNat) (rest : List Byte) :
    decodeHost (op :: rest) = .rejected (.reservedOpcode op) rest := by
  have hop : op.toNat = 0 ∨ 0x10 ≤ op.toNat := h.imp_left (congrArg BitVec.toNat)
  unfold decodeHost
  dsimp only
  split
  case h_16 => rfl
  all_goals omega

/-- A complete operation whose address byte has bits 7..6 set. -/
theorem decodeHost_wideAddress {b v n : Byte} {d rest op : List Byte} (hb : 64 ≤ b.toNat) (hn : n.toNat = d.length)
    (hop : op ∈ [[0x01, b, v], [0x02, b, n] ++ d, [0x03, b], [0x04, b], [0x05, b, v]]) :
    decodeHost (op ++ rest) = .rejected (.addressBits b) rest := by
  simp only [List.mem_cons, List.not_mem_nil, or_false] at hop
  obtain rfl | rfl | rfl | rfl | rfl := hop
  · exact withAddress_wide hb rest _
  · show decodeWburst (b :: n :: (d ++ rest)) = _
    rw [decodeWburst, hn, takeBytes_append]
    exact withAddress_wide hb rest _
  · exact withAddress_wide hb rest _
  · exact withAddress_wide hb rest _
  · exact withAddress_wide hb rest _

/-- A complete CONFIGURE with an address byte of bits 7..6 set. -/
theorem decodeHost_configure_wide {la m : Byte} {pairs : List (Byte × Byte)} (hm : m.toNat = pairs.length)
    (hwide : ∃ x ∈ pairs, 64 ≤ x.1.toNat) (rest : List Byte) :
    ∃ b, decodeHost (0x08 :: la :: m :: (pairs.flatMap fun x => [x.1, x.2]) ++ rest) =
      .rejected (.addressBits b) rest := by
  obtain ⟨b, hb⟩ := addressPairs_wide hwide
  refine ⟨b, ?_⟩
  show decodeConfigure (la :: m :: ((pairs.flatMap fun x => [x.1, x.2]) ++ rest)) = _
  rw [decodeConfigure, hm, takePairs_flatMap]
  dsimp only
  rw [hb]

end Sys2Proof

namespace Sys2Proof.Machine

/-- Host bytes that spell no operation are taken and not admitted (R403). -/
theorem step_rejected {s : State} {why : Reject} {rest : List Byte} (hs : HostReady s) (hb : s.busIn = [])
    (hd : decodeHost s.hostIn = .rejected why rest) (hwhy : why ≠ .empty) :
    step s = .next { s with hostIn := rest, reply := .notAdmitted } := by
  have hh : s.hostIn ≠ [] := by
    intro h
    rw [h] at hd
    cases hd
    exact hwhy rfl
  have hs' : HostReady (leaveHost rest s) := hs
  rw [step_of_host hb hh, stepHost, hd]
  dsimp only
  rw [rejectHost, admitOp_refused hs', refuse, leaveHost]

/-- Settles O5: the decoder rejects the opcode, and what the decoder rejects is not admitted. -/
theorem reservedOpcodesAreRefused : Obligations.ReservedOpcodesAreRefused := by
  intro s op rest hs hb hh hop
  exact step_rejected hs hb ((congrArg decodeHost hh).trans (decodeHost_reserved hop rest)) nofun

/-- Settles O6: the decoder rejects the bytes, and what the decoder rejects is not admitted. -/
theorem truncatedAndWideAddressesAreRefused : Obligations.TruncatedAndWideAddressesAreRefused := by
  refine ⟨fun s i n hs hb hwf hi hpos hn hh => ?_, fun s b v n d rest op hs hb hwide hn hop hh => ?_,
    fun s la m pairs rest hs hb hm hwide hh => ?_⟩
  · exact step_rejected hs hb ((congrArg decodeHost hh).trans (decodeHost_take hwf hi hpos hn)) nofun
  · exact step_rejected hs hb ((congrArg decodeHost hh).trans (decodeHost_wideAddress hwide hn hop)) nofun
  · obtain ⟨b, hd⟩ := decodeHost_configure_wide (la := la) hm hwide rest
    exact step_rejected hs hb ((congrArg decodeHost hh).trans hd) nofun

end Sys2Proof.Machine
end

section
/-! PROOFS. Register access and strobes whose transactions complete (40_register_access.md, 41_strobes.md): each is one
transaction of its frame. -/

namespace Sys2Proof.Machine

/-! ### Transactions whose answer is known (R160, R200) -/

section
variable {p : Phase} {c : Strobe} {mosi miso : List Byte} {m : Byte} {e : Env} {s : State}

theorem xferAt_complete {k : List Byte → State → State} (h : s.busAnswer mosi = (miso, e))
    (hl : miso.length = mosi.length) : xferAt p mosi s k = k miso (moved mosi miso e (atPhase p s)) :=
  xferOr_complete (s := atPhase p s) h hl

theorem strobeThen_complete {k : State → State} (h : s.busAnswer [c.code s.params] = ([m], e)) :
    strobeThen c s k = k (recordStrobe c (moved [c.code s.params] [m] e s)) :=
  xferOr_complete (k := fun _ s => k (recordStrobe c s)) h rfl

/-- A strobe that moved no byte. -/
theorem strobeThen_cut {k : State → State} (h : s.busAnswer [c.code s.params] = ([], e)) :
    strobeThen c s k = busFault (moved [c.code s.params] [] e s) :=
  xferOr_cut (onShort := busFault) (k := fun _ s => k (recordStrobe c s)) h Nat.zero_lt_one

theorem sresThen_complete {k : State → State} (h : s.busAnswer [s.params.codeSres] = ([m], e)) :
    sresThen s k = k (moved [s.params.codeSres] [m] e (atPhase .rstSres s)) :=
  xferOr_complete (s := atPhase .rstSres s) (k := fun _ s => k s) h rfl

end

/-! ### Register access (R160, R165 to R169) -/

/-- A register write whose answer is known and complete. -/
theorem exec_writeBody_complete {i : Instr} {mosi miso : List Byte} {e : Env} {s : State} (hs : BusReady s)
    (hi : i.isBus = false) (hc : admission s.params i = ⟨false, none, .bus, writeBody mosi⟩)
    (h : s.busAnswer mosi = (miso, e)) (hl : miso.length = mosi.length) :
    exec i s = .next { s with
      cs := true, env := e, trace := s.trace ++ transaction mosi miso
      outcome := .ok, detail := ⟨.xfer, .none⟩, phase := .none, busy := false, reply := .outcome
      polls := 0, retries := 0 } := by
  obtain ⟨hready, hinit⟩ := hs
  rw [exec_host hi, hc, admitOp_run hready (gateFault_bus hinit)]
  dsimp only
  rw [writeBody, xferAt_complete (s := beginOp s) h hl]
  rfl

/-- A register read whose answer is known and complete. -/
theorem exec_readBody_complete {i : Instr} {mosi miso : List Byte} {e : Env} {s : State} (hs : BusReady s)
    (hi : i.isBus = false) (hc : admission s.params i = ⟨false, none, .bus, readBody mosi⟩)
    (h : s.busAnswer mosi = (miso, e)) (hl : miso.length = mosi.length) :
    exec i s = .next { s with
      cs := true, env := e, trace := s.trace ++ transaction mosi miso
      rdData := miso.drop 1, written := { s.written with rdData := true }
      outcome := .ok, detail := ⟨.xfer, .none⟩, phase := .none, busy := false, reply := .outcome
      polls := 0, retries := 0 } := by
  obtain ⟨hready, hinit⟩ := hs
  rw [exec_host hi, hc, admitOp_run hready (gateFault_bus hinit)]
  dsimp only
  rw [readBody, xferAt_complete (s := beginOp s) h hl]
  rfl

/-- A burst of 1..FIFO_SIZE bytes reports no argument outcome (R163). -/
theorem burstArg_eq_none {p : Params} {n : Nat} (hpos : 1 ≤ n) (hmax : n ≤ p.fifoSize) : burstArg p n = none := by
  have hfits : ¬ burstLengthBad p n = true := by rw [burstLengthBad_iff]; omega
  rw [burstArg, if_neg hfits]

/-- Settles O21: the entry of WREG is the write of its frame. -/
theorem wregCompletes : Obligations.WregCompletes := by
  intro a v m₀ m₁ e s hs ha h
  have hentry : admission s.params (.wreg a v) = ⟨false, none, .bus, writeBody [a.setWidth 8, v]⟩ := by
    rw [admission, isConfigAddr_iff.2 ha, frameWriteSingle, commandByte_write]
    rfl
  exact exec_writeBody_complete hs rfl hentry h rfl

/-- Settles O22: the entry of WBURST is the write of its frame, where neither its address nor its length stops it. -/
theorem wburstCompletes : Obligations.WburstCompletes := by
  intro a d miso e s hs ha hpos hmax h hl
  have hentry : admission s.params (.wburst a d) = ⟨false, none, .bus, writeBody ((0x40 ||| a.setWidth 8) :: d)⟩ := by
    rw [admission, burstAddrOk_iff.2 ha, burstArg_eq_none hpos hmax, frameWriteBurst, commandByte_writeBurst]
    rfl
  exact exec_writeBody_complete hs rfl hentry h hl

/-- Settles O23: the entry of each read is the read of its frame. -/
theorem readsCompleteWithTheirData : Obligations.ReadsCompleteWithTheirData := by
  intro i mosi d m₀ e s hs hi h hl
  have hentry : i.isBus = false ∧ admission s.params i = ⟨false, none, .bus, readBody mosi⟩ := by
    rcases hi with ⟨a, rfl, ha, rfl⟩ | ⟨a, rfl, ha, rfl⟩ | ⟨a, n, rfl, ha, hpos, hmax, rfl⟩ <;> refine ⟨rfl, ?_⟩
    · rw [admission, isConfigAddr_iff.2 ha, frameReadSingle, commandByte_read]
      rfl
    · rw [admission, isStatusRegister_iff.2 ha, frameReadStatus_eq]
      rfl
    · rw [admission, burstAddrOk_iff.2 ha, burstArg_eq_none hpos hmax, frameReadBurst, commandByte_readBurst]
      rfl
  exact exec_readBody_complete hs hentry.1 hentry.2 h hl

/-! ### Strobes (R200, R203 to R208) -/

/-- A host strobe is admitted by its code, where the codes differ (D3); a flush only in IDLE (R202). -/
theorem exec_strobe_run {k : Strobe} {s : State} (hs : BusReady s) (hp : s.params.Distinct)
    (hflush : Strobe.isFlush k = true → s.linkMode = .idle) :
    exec (.strobe (k.code s.params)) s = .next (strobeBody k (beginOp s)) := by
  obtain ⟨hready, hinit⟩ := hs
  have hgate : gateFault (.strobe k) s = none := by
    cases hk : Strobe.isFlush k with
    | false => simp [gateFault, hinit, hk]
    | true => simp [gateFault, hinit, hflush hk]
  rw [exec, execStrobe, Strobe.ofCode_code hp]
  exact congrArg Host.Outcome.next (admitOp_run hready hgate)

/-- The strobe that a code and the LINK_MODE it leaves stand for (R200). -/
theorem exists_strobe_of_mem {code : Byte} {mode m : LinkMode} {p : Params}
    (h : (code, mode) ∈ [(p.codeSidle, LinkMode.idle), (p.codeStx, .tx), (p.codeSrx, .rx), (p.codeSftx, m),
      (p.codeSfrx, m)]) :
    ∃ k : Strobe, code = k.code p ∧ mode = Strobe.modeAfter k m := by
  simp only [List.mem_cons, List.not_mem_nil, or_false, Prod.mk.injEq] at h
  rcases h with ⟨rfl, rfl⟩ | ⟨rfl, rfl⟩ | ⟨rfl, rfl⟩ | ⟨rfl, rfl⟩ | ⟨rfl, rfl⟩
  · exact ⟨.sidle, rfl, rfl⟩
  · exact ⟨.stx, rfl, rfl⟩
  · exact ⟨.srx, rfl, rfl⟩
  · exact ⟨.sftx, rfl, rfl⟩
  · exact ⟨.sfrx, rfl, rfl⟩

/-- The flush strobes by their codes (R202). -/
theorem Strobe.code_of_isFlush {p : Params} {k : Strobe} (h : Strobe.isFlush k = true) :
    k.code p = p.codeSftx ∨ k.code p = p.codeSfrx := by
  cases k with
  | sftx => exact .inl rfl
  | sfrx => exact .inr rfl
  | sidle | stx | srx => cases h

/-- Settles O25: the strobe's one transaction is complete, and its mode is recorded, or it is short. -/
theorem strobesSetLinkMode : Obligations.StrobesSetLinkMode := by
  intro code mode e s hs hp hmem hflush
  obtain ⟨k, rfl, rfl⟩ := exists_strobe_of_mem hmem
  rw [exec_strobe_run hs hp fun hk => hflush (Strobe.code_of_isFlush hk)]
  refine ⟨fun m h => ?_, fun h => ?_⟩
  · rw [strobeBody, strobeAt, strobeThen_complete (s := atPhase .strobe (beginOp s)) h]
    rfl
  · rw [strobeBody, strobeAt, strobeThen_cut (s := atPhase .strobe (beginOp s)) h]
    rfl

/-- A strobe command whose answer is known and complete. -/
theorem exec_strobe_complete {i : Instr} {k : Strobe} {m : Byte} {e : Env} {s : State} (hs : CommandReady s)
    (hi : i.isBus = true) (hc : command s.params i = .strobe k) (h : s.busAnswer [k.code s.params] = ([m], e)) :
    exec i s = .next (recordStrobe k (moved [k.code s.params] [m] e s)) := by
  rw [exec_bus hi, hc, Command.strobe, admitBus_run hs]
  dsimp only
  rw [strobeThen_complete h]

/-- A command that needs no earlier RESET is performed outside the settle wait. -/
theorem admitBus_beforeReset {s : State} {body : State → State} (hf : s.faulted = false) (hp : s.phase ≠ .rstSettle) :
    admitBus true false s body = body s := by
  simp [admitBus, hf, hp]

/-- Settles O46: the entry of each strobe command is its strobe, and SRES goes on to the settle wait. -/
theorem busStrobesComplete : Obligations.BusStrobesComplete := by
  refine ⟨fun i code m mode e s hs hmem h => ?_, fun m e s hf hp h => ?_⟩
  · simp only [List.mem_cons, List.not_mem_nil, or_false, Prod.mk.injEq] at hmem
    rcases hmem with ⟨rfl, rfl, rfl⟩ | ⟨rfl, rfl, rfl⟩ | ⟨rfl, rfl, rfl⟩ | ⟨rfl, rfl, rfl⟩ | ⟨rfl, rfl, rfl⟩
    · exact exec_strobe_complete (k := .sidle) hs rfl rfl h
    · exact exec_strobe_complete (k := .stx) hs rfl rfl h
    · exact exec_strobe_complete (k := .srx) hs rfl rfl h
    · exact exec_strobe_complete (k := .sftx) hs rfl rfl h
    · exact exec_strobe_complete (k := .sfrx) hs rfl rfl h
  · rw [exec, execBusSres, admitBus_beforeReset hf hp, sresThen_complete (s := setBusy s) h]
    rfl

end Sys2Proof.Machine
end

section
/-! PROOFS. Flushes after SIDLE (R211): along SEND and RECEIVE, whether a SIDLE has been seen with no STX or SRX
since. -/

namespace Sys2Proof.Machine

/-! ### The command byte of a transaction -/

/-- Whether a SIDLE has been seen, with no STX or SRX since, after a transaction of command byte c. -/
def idleAfter (p : Params) (idle : Bool) (c : Byte) : Bool :=
  if c = p.codeSidle then true else if c = p.codeStx ∨ c = p.codeSrx then false else idle

/-- A transaction of command byte c keeps R211. -/
def FlushAllowed (p : Params) (idle : Bool) (c : Byte) : Prop := c = p.codeSftx ∨ c = p.codeSfrx → idle = true

/-- Only the command byte of a transaction counts. -/
theorem flushesAfterIdle_operands (p : Params) (idle : Bool) (l : List (Byte × Byte)) (es : List Event) :
    flushesAfterIdle p idle false (l.map (fun x => Event.xchg x.1 x.2) ++ .csHigh :: es) =
      flushesAfterIdle p idle false es := by
  induction l with
  | nil => rfl
  | cons x l ih => exact ih

/-- A transaction that moved its command byte. -/
theorem flushesAfterIdle_transaction {p : Params} {idle : Bool} {c : Byte} (h : FlushAllowed p idle c) (m : Byte)
    (d ms : List Byte) (es : List Event) :
    flushesAfterIdle p idle false (transaction (c :: d) (m :: ms) ++ es) =
      flushesAfterIdle p (idleAfter p idle c) false es := by
  have hsplit : transaction (c :: d) (m :: ms) ++ es =
      .csLow :: .xchg c m :: ((List.zip d ms).map (fun x => Event.xchg x.1 x.2) ++ .csHigh :: es) := by
    simp [transaction]
  rw [hsplit, flushesAfterIdle, flushesAfterIdle, idleAfter]
  simp only [flushesAfterIdle_operands]
  split_ifs with hsidle hrun hflush
  · rfl
  · rfl
  · rw [h hflush, Bool.true_and]
  · rfl

/-- A transaction that is the last, whatever it moved. -/
theorem flushesAfterIdle_last {p : Params} {idle : Bool} {c : Byte} (h : FlushAllowed p idle c) (d miso : List Byte) :
    flushesAfterIdle p idle false (transaction (c :: d) miso) = true := by
  cases miso with
  | nil => rfl
  | cons m ms => simpa [flushesAfterIdle] using flushesAfterIdle_transaction h m d ms []

/-! ### Command bytes of the block's frames (R123, R126) -/

/-- A command byte with R or B set is no strobe code (D3). -/
theorem idleAfter_command {p : Params} (hp : p.Distinct) {idle : Bool} {c : Byte} (hc : 64 ≤ c.toNat) :
    idleAfter p idle c = idle ∧ FlushAllowed p idle c := by
  obtain ⟨-, hsmall, -⟩ := hp
  have hne : ∀ x ∈ [p.codeSres, p.codeSrx, p.codeStx, p.codeSidle, p.codeSfrx, p.codeSftx], c ≠ x := by
    rintro x hx rfl
    exact absurd (hsmall c hx) (Nat.not_lt.2 hc)
  simp only [List.mem_cons, List.not_mem_nil, or_false, forall_eq_or_imp, forall_eq] at hne
  obtain ⟨-, hsrx, hstx, hsidle, hsfrx, hsftx⟩ := hne
  exact ⟨by simp [idleAfter, hsidle, hstx, hsrx], fun h => (h.elim hsftx hsfrx).elim⟩

theorem le_commandByte_writeBurst (a : Addr) : 64 ≤ (commandByte false true a).toNat := by
  revert a; decide

theorem le_commandByte_readBurst (a : Addr) : 64 ≤ (commandByte true true a).toNat := by
  revert a; decide

/-- Whether a SIDLE has been seen, with no STX or SRX since, after a strobe. -/
def Strobe.idleAfter (c : Strobe) (idle : Bool) : Bool :=
  match c with
  | .sidle => true
  | .stx | .srx => false
  | .sftx | .sfrx => idle

/-- The strobe codes are told apart (D3). -/
theorem Strobe.code_inj {p : Params} (hp : p.Distinct) {c k : Strobe} : c.code p = k.code p ↔ c = k := by
  refine ⟨fun h => ?_, fun h => h ▸ rfl⟩
  have hc := Strobe.ofCode_code hp c
  rw [h, Strobe.ofCode_code hp k] at hc
  exact (Option.some.inj hc).symm

theorem idleAfter_code {p : Params} (hp : p.Distinct) {idle : Bool} (c : Strobe) :
    Machine.idleAfter p idle (c.code p) = Strobe.idleAfter c idle := by
  show (if c.code p = Strobe.code p .sidle then true
    else if c.code p = Strobe.code p .stx ∨ c.code p = Strobe.code p .srx then false else idle) = _
  simp only [Strobe.code_inj hp]
  cases c <;> rfl

/-- A strobe other than a flush is allowed anywhere. -/
theorem flushAllowed_code {p : Params} (hp : p.Distinct) {idle : Bool} {c : Strobe}
    (hf : Strobe.isFlush c = true → idle = true) : FlushAllowed p idle (c.code p) := by
  rintro (h | h)
  · exact hf (by rw [(Strobe.code_inj hp (k := .sftx)).1 h]; rfl)
  · exact hf (by rw [(Strobe.code_inj hp (k := .sfrx)).1 h]; rfl)

/-! ### The walk through a link operation -/

/-- From s to t the parameters stay and R211 is kept; `idle` says whether a SIDLE has been seen, with no STX or SRX
since. -/
structure IdleSeen (s : State) (idle : Bool) (t : State) : Prop where
  params : t.params = s.params
  trace : ∃ es, t.trace = s.trace ++ es ∧
    ∀ fs, flushesAfterIdle s.params false false (es ++ fs) = flushesAfterIdle s.params idle false fs

/-- The events from s to t keep R211. -/
def FlushesFollow (s t : State) : Prop :=
  ∃ es, t.trace = s.trace ++ es ∧ flushesAfterIdle s.params false false es = true

namespace IdleSeen
variable {s t u : State} {idle : Bool}

theorem refl (s : State) : IdleSeen s false s := ⟨rfl, [], (List.append_nil _).symm, fun _ => rfl⟩

/-- Where an operation ends, nothing more is put on the trace. -/
theorem ends (h : IdleSeen s idle t) (hu : u.trace = t.trace) : FlushesFollow s u := by
  obtain ⟨es, hes, hidle⟩ := h.trace
  exact ⟨es, hu.trans hes, by simpa [flushesAfterIdle] using hidle []⟩

theorem append {idle' : Bool} {es : List Event} (h : IdleSeen s idle t) (hp : u.params = t.params)
    (hu : u.trace = t.trace ++ es)
    (hes : ∀ fs, flushesAfterIdle s.params idle false (es ++ fs) = flushesAfterIdle s.params idle' false fs) :
    IdleSeen s idle' u := by
  obtain ⟨es₀, hes₀, hidle⟩ := h.trace
  exact ⟨hp.trans h.params, es₀ ++ es, by rw [hu, hes₀, List.append_assoc],
    fun fs => by rw [List.append_assoc, hidle, hes]⟩

theorem setRetries (h : IdleSeen s idle t) (n : Nat) : IdleSeen s idle (setRetries n t) := { h with }

theorem sampleLine (h : IdleSeen s idle t) : IdleSeen s idle (sampleLine t).2 := h.append rfl rfl fun _ => rfl

/-- A transaction whose command byte R211 allows; a short one ends the operation. -/
theorem xferAt (h : IdleSeen s idle t) {p : Phase} {c : Byte} {d : List Byte} {k : List Byte → State → State}
    (hc : FlushAllowed s.params idle c)
    (hk : ∀ miso u, IdleSeen s (idleAfter s.params idle c) u → FlushesFollow s (k miso u)) :
    FlushesFollow s (xferAt p (c :: d) t k) := by
  refine xferOr_cases (fun _ => ?_) fun hl => hk _ _ ?_
  · obtain ⟨es, hes, hidle⟩ := h.trace
    refine ⟨es ++ transaction (c :: d) (xfer (c :: d) (atPhase p t)).1, ?_,
      (hidle _).trans (flushesAfterIdle_last hc _ _)⟩
    rw [busFault, raise_trace, xfer_trace, transactionEvents_eq, atPhase_trace, hes, List.append_assoc]
    rfl
  · obtain ⟨m, ms, hmiso⟩ := List.exists_cons_of_length_eq_add_one hl
    refine h.append rfl (by rw [xfer_trace, transactionEvents_eq]; rfl) fun fs => ?_
    exact hmiso ▸ flushesAfterIdle_transaction hc m d ms fs

/-! ### The completion line (R271) -/

theorem pollLoop (level : Bool) (n : Nat) {t : State} (h : IdleSeen s idle t) :
    IdleSeen s idle (pollLoop level n t).2 := by
  induction n generalizing t with
  | zero => exact h
  | succ n ih =>
    have hpolled : IdleSeen s idle (setPolls ((Machine.sampleLine t).2.polls + 1) (Machine.sampleLine t).2) :=
      { h.sampleLine with }
    rw [Machine.pollLoop]
    split
    · exact hpolled
    · exact ih hpolled

theorem pollAt (h : IdleSeen s idle t) {p : Phase} {level : Bool} {n : Nat} {onTimeout k : State → State}
    (ht : ∀ u, IdleSeen s idle u → FlushesFollow s (onTimeout u))
    (hk : ∀ u, IdleSeen s idle u → FlushesFollow s (k u)) : FlushesFollow s (pollAt p level n t onTimeout k) := by
  have hpoll : IdleSeen s idle (Machine.pollLoop level n (setPolls 0 (atPhase p t))).2 :=
    pollLoop level n { h with }
  rw [Machine.pollAt, pollUntil]
  revert hpoll
  rcases Machine.pollLoop level n (setPolls 0 (atPhase p t)) with ⟨_ | _, u⟩ <;> intro hpoll
  · exact ht u hpoll
  · exact hk u hpoll

section
variable (hp : s.params.Distinct)
include hp

/-! ### Strobes and other frames (R125, R200) -/

/-- A frame that is no strobe. -/
theorem commandAt (h : IdleSeen s idle t) {p : Phase} {c : Byte} {d : List Byte} {k : List Byte → State → State}
    (hc : 64 ≤ c.toNat) (hk : ∀ miso u, IdleSeen s idle u → FlushesFollow s (k miso u)) :
    FlushesFollow s (Machine.xferAt p (c :: d) t k) := by
  obtain ⟨hidle, hallowed⟩ := idleAfter_command hp (idle := idle) hc
  exact h.xferAt hallowed (by rwa [hidle])

theorem readStatusAt (h : IdleSeen s idle t) {p : Phase} {a : Addr} {k : Byte → State → State}
    (hk : ∀ v u, IdleSeen s idle u → FlushesFollow s (k v u)) : FlushesFollow s (readStatusAt p a t k) :=
  h.commandAt hp (le_commandByte_readBurst a) fun _ _ hu => hk _ _ hu

theorem strobeAt (h : IdleSeen s idle t) {p : Phase} (c : Strobe) {k : State → State}
    (hf : Strobe.isFlush c = true → idle = true)
    (hk : ∀ u, IdleSeen s (Strobe.idleAfter c idle) u → FlushesFollow s (k u)) :
    FlushesFollow s (strobeAt p c t k) := by
  have hcode : c.code t.params = c.code s.params := by rw [h.params]
  refine h.xferAt (hcode ▸ flushAllowed_code hp hf) fun _ u hu => hk _ { hu with trace := ?_ }
  rw [← idleAfter_code hp, ← hcode]
  exact hu.trace

/-! ### SEND (R272, R273) -/

theorem txRecover (h : IdleSeen s idle t) (p : Phase) : FlushesFollow s (txRecover p t) :=
  h.strobeAt hp .sidle nofun fun _ hu =>
  hu.strobeAt hp .sftx (fun _ => rfl) fun _ hu => hu.ends rfl

/-- SEND ends with a flush, or with SFRX and SRX, after its last SIDLE. -/
theorem sendFinish (h : IdleSeen s true t) : FlushesFollow s (sendFinish t) := by
  unfold Machine.sendFinish
  split
  · exact h.strobeAt hp .sfrx (fun _ => rfl) fun _ hu => hu.strobeAt hp .srx nofun fun _ hu => hu.ends rfl
  · exact h.ends rfl

theorem sendBody (h : IdleSeen s idle t) (dest : Byte) (d : List Byte) : FlushesFollow s (sendBody dest d t) :=
  have hstored : IdleSeen s idle (storeFrame (frameOf dest d) t) := { h with }
  hstored.strobeAt hp .sidle nofun fun _ hu =>
  hu.strobeAt hp .sftx (fun _ => rfl) fun _ hu =>
  hu.commandAt hp (le_commandByte_writeBurst _) fun _ _ hu =>
  hu.strobeAt hp .stx nofun fun _ hu =>
  hu.pollAt (fun _ hv => hv.txRecover hp _) fun _ hu =>
  hu.pollAt (fun _ hv => hv.txRecover hp _) fun _ hu =>
  hu.strobeAt hp .sidle nofun fun _ hu =>
  hu.strobeAt hp .sftx (fun _ => rfl) fun _ hu => hu.sendFinish hp

/-! ### RECEIVE (R275 to R287) -/

/-- RX is entered with SIDLE, SFRX, SRX. -/
theorem enterRx (h : IdleSeen s idle t) {p₁ p₂ p₃ : Phase} {k : State → State}
    (hk : ∀ u, IdleSeen s false u → FlushesFollow s (k u)) : FlushesFollow s (enterRx p₁ p₂ p₃ t k) :=
  h.strobeAt hp .sidle nofun fun _ hu =>
  hu.strobeAt hp .sfrx (fun _ => rfl) fun _ hu => hu.strobeAt hp .srx nofun hk

theorem countLoop (n : Nat) {c₁ c₂ : Byte} {t : State} (h : IdleSeen s idle t) {k : Byte → State → State}
    (hk : ∀ c u, IdleSeen s idle u → FlushesFollow s (k c u)) : FlushesFollow s (countLoop n c₁ c₂ t k) := by
  induction n generalizing c₁ c₂ t with
  | zero =>
    rw [Machine.countLoop]
    split
    · exact hk _ _ h
    · exact h.ends rfl
  | succ n ih =>
    rw [Machine.countLoop]
    split
    · exact hk _ _ h
    · exact h.readStatusAt hp fun _ _ hu => ih (hu.setRetries _)

theorem stableCount (h : IdleSeen s idle t) {k : Byte → State → State}
    (hk : ∀ c u, IdleSeen s idle u → FlushesFollow s (k c u)) : FlushesFollow s (stableCount t k) :=
  h.readStatusAt hp fun _ _ hu => hu.readStatusAt hp fun _ _ hv => countLoop hp _ (hv.setRetries 0) hk

theorem receiveImage (h : IdleSeen s idle t) (r : List Byte) (n : Nat) : FlushesFollow s (receiveImage r n t) := by
  have hresume : ∀ {v : State} {k : State → State}, IdleSeen s idle v → (∀ u, (k u).trace = u.trace) →
      FlushesFollow s (resumeRx v k) := fun hv hk => hv.enterRx hp fun u hu => hu.ends (hk u)
  simp only [Machine.receiveImage]
  split
  · exact hresume { h with } fun _ => rfl
  split
  · exact hresume { h with } fun _ => rfl
  split
  · exact h.ends rfl
  split
  · exact hresume { h with } fun _ => rfl
  · exact hresume { h with } fun _ => rfl

theorem receiveCounted (h : IdleSeen s idle t) (n : Nat) : FlushesFollow s (receiveCounted n t) := by
  unfold Machine.receiveCounted
  split
  · exact h.ends rfl
  refine h.readStatusAt hp fun m u hu => ?_
  have hovf : ∀ sub, FlushesFollow s (overflow sub u) := fun _ => hu.enterRx hp fun _ hv => hv.ends rfl
  split
  · exact hovf _
  split
  · exact hovf _
  · exact hu.commandAt hp (le_commandByte_readBurst _) fun _ _ hv => hv.receiveImage hp _ _

theorem receiveBody (h : IdleSeen s idle t) : FlushesFollow s (receiveBody t) :=
  have hdrawn : IdleSeen s idle (drawReceive t) := { h with }
  hdrawn.enterRx hp fun _ hu =>
  hu.pollAt (fun _ hv => hv.ends rfl) fun _ hu =>
  hu.stableCount hp fun _ _ hv => hv.receiveCounted hp _

end

end IdleSeen

/-- An operation that does not execute puts nothing on the trace (R404). -/
theorem flushesFollow_admitOp {refused : Bool} {arg : Option ArgOutcome} {g : Gate} {s : State} {body : State → State}
    (hbody : FlushesFollow s (body (beginOp s))) : FlushesFollow s (admitOp refused arg g s body) :=
  have h := IdleSeen.refl s
  admitOp_cases (fun _ => h.ends rfl) (fun _ _ => h.ends rfl) (fun _ _ => h.ends rfl) (fun _ _ _ _ => h.ends rfl)
    (fun _ _ _ _ _ => h.ends rfl) fun _ _ _ _ => hbody

/-- Settles O56: both operations are walked from the state in which they begin, where no SIDLE has been seen. -/
theorem flushesFollowSidle : Obligations.FlushesFollowSidle := by
  intro i s t hp hi ht
  have hbegun : IdleSeen s false (beginOp s) := { IdleSeen.refl s with }
  rcases hi with rfl | ⟨dest, d, rfl⟩ <;> cases ht
  · exact flushesFollow_admitOp (hbegun.receiveBody hp)
  · exact flushesFollow_admitOp (hbegun.sendBody hp dest d)

end Sys2Proof.Machine
end

section
/-! PROOFS. BUS_FAULT of register accesses and bus commands: malformed burst lengths (R163) and short transactions (R160,
R162); then RESET, and what it is made of (R161, R209, R210). -/

namespace Sys2Proof.Machine

/-! ### Malformed burst lengths (R163) -/

/-- A burst of 0 or more than FIFO_SIZE bytes reports an argument outcome (R163). -/
theorem burstArg_eq_some {p : Params} {n : Nat} (h : n = 0 ∨ p.fifoSize < n) :
    burstArg p n = some ⟨.busFault, .xfer, .malformedLength⟩ := if_pos (burstLengthBad_iff.2 h)

/-- The address of a burst whose length is malformed need only be the FIFO or a configuration register. -/
theorem burstRange_of_malformedLength {p : Params} {a : Addr} {n : Nat} (ha : a = p.addrFifo ∨ ConfigRange p a)
    (hn : n = 0 ∨ p.fifoSize < n) : BurstRange p a n :=
  ha.imp_right fun hrange => ⟨hrange, fun hfits => by omega⟩

/-- An admitted operation whose operands report an outcome (R404 item 4). -/
theorem exec_argument {s : State} {i : Instr} {a : ArgOutcome} (hs : HostReady s) (hi : i.isBus = false)
    (hadm : Admitted s.params i) (harg : (admission s.params i).arg = some a) :
    exec i s = .next (raise a.outcome a.phase a.sub (clearCounters s)) := by
  rw [exec_host hi, admission_refused_eq_false hi hadm, harg, admitOp_argument hs]

/-- Settles O19: the length is an argument outcome, which no state fault goes before (R404). -/
theorem malformedBurstLength : Obligations.MalformedBurstLength := by
  intro i a n s hs ha hn hi
  have hrange : BurstRange s.params a n := burstRange_of_malformedLength ha hn
  rcases hi with ⟨d, rfl, rfl⟩ | ⟨b, rfl, rfl⟩
  · exact exec_argument (i := .wburst a d) hs rfl hrange (burstArg_eq_some hn)
  · exact exec_argument (i := .rburst a b) hs rfl hrange (burstArg_eq_some hn)

/-! ### Short transactions (R160, R162) -/

/-- A transaction in the current phase whose answer is known and short. -/
theorem xferThen_cut {mosi miso : List Byte} {e : Env} {s : State} {k : List Byte → State → State}
    (h : s.busAnswer mosi = (miso, e)) (hl : miso.length < mosi.length) :
    xferThen mosi s k = busFault (moved mosi miso e s) := xferOr_cut h hl

/-- A transaction at a phase whose answer is known and short. -/
theorem xferAt_cut {p : Phase} {mosi miso : List Byte} {e : Env} {s : State} {k : List Byte → State → State}
    (h : s.busAnswer mosi = (miso, e)) (hl : miso.length < mosi.length) :
    xferAt p mosi s k = busFault (moved mosi miso e (atPhase p s)) := xferThen_cut (s := atPhase p s) h hl

/-- A register write or read whose transaction is short stores nothing (R162). -/
theorem registerBody_cut {body : State → State} {mosi miso : List Byte} {e : Env} {s : State}
    (hbody : body = writeBody mosi ∨ body = readBody mosi) (h : s.busAnswer mosi = (miso, e))
    (hl : miso.length < mosi.length) : body s = busFault (moved mosi miso e (atPhase .xfer s)) := by
  rcases hbody with rfl | rfl
  · exact xferAt_cut h hl
  · exact xferAt_cut h hl

/-- A host operation that neither its operands nor its gate stop executes. -/
theorem exec_run {s : State} {i : Instr} (hs : HostReady s) (hi : i.isBus = false) (ha : Admitted s.params i)
    (hr : ¬ ArgumentsReported s i) (hg : gateFault (admission s.params i).gate s = none) :
    exec i s = .next ((admission s.params i).body (beginOp s)) := by
  rw [exec_host hi, admission_refused_eq_false hi ha, admission_arg_eq_none hr, admitOp_run hs hg]

/-- Settles O24: the entry of each register access is the write or the read of its frame, gated by INITIALISED. -/
theorem shortRegisterAccessFaults : Obligations.ShortRegisterAccessFaults := by
  intro i mosi miso e s hs ha hr hi h hl
  obtain ⟨hready, hinit⟩ := hs
  have hentry : i.isBus = false ∧ (admission s.params i).gate = .bus ∧
      ((admission s.params i).body = writeBody mosi ∨ (admission s.params i).body = readBody mosi) := by
    rcases hi with ⟨a, v, rfl, rfl⟩ | ⟨a, d, rfl, rfl⟩ | ⟨a, rfl, rfl⟩ | ⟨a, rfl, rfl⟩ | ⟨a, n, rfl, rfl⟩ <;>
      refine ⟨rfl, rfl, ?_⟩
    · exact .inl (by rw [admission, frameWriteSingle, commandByte_write])
    · exact .inl (by rw [admission, frameWriteBurst, commandByte_writeBurst])
    · exact .inr (by rw [admission, frameReadSingle, commandByte_read])
    · exact .inr (by rw [admission, frameReadStatus_eq])
    · exact .inr (by rw [admission, frameReadBurst, commandByte_readBurst, dummies])
  obtain ⟨hhost, hgate, hbody⟩ := hentry
  have hopen : gateFault (admission s.params i).gate s = none := by rw [hgate, gateFault_bus hinit]
  rw [exec_run hready hhost ha hr hopen, registerBody_cut (s := beginOp s) hbody h hl]
  rfl

/-- A bus command other than SRES is one transaction of its encoding in the current phase (R125, R160, R200). -/
theorem exists_command_body_eq_xferThen {i : Instr} (hi : i.isBus = true) (hne : i ≠ .busSres) (s : State) :
    ∃ k, (command s.params i).body s = xferThen (encode s.params i) s k := by
  cases i with
  | busWriteSingle | busWriteBurst | busFifoWrite => exact ⟨fun _ t => t, rfl⟩
  | busReadSingle | busReadStatus | busReadBurst | busFifoRead | busReadRssi | busReadMarcstate | busReadRxbytes =>
    exact ⟨fun miso => storeBusData (miso.drop 1), rfl⟩
  | busSrx => exact ⟨fun _ => recordStrobe .srx, rfl⟩
  | busStx => exact ⟨fun _ => recordStrobe .stx, rfl⟩
  | busSidle => exact ⟨fun _ => recordStrobe .sidle, rfl⟩
  | busSfrx => exact ⟨fun _ => recordStrobe .sfrx, rfl⟩
  | busSftx => exact ⟨fun _ => recordStrobe .sftx, rfl⟩
  | busSres => exact absurd rfl hne
  | _ => cases hi

/-- Settles O48: the command's one transaction is short, so it ends in BUS_FAULT at the phase it stands in. -/
theorem shortBusCommandFaults : Obligations.ShortBusCommandFaults := by
  intro i miso e s hs hi hne ha h hl
  obtain ⟨hok, -⟩ := command_of_admitted hi hne ha
  obtain ⟨k, hbody⟩ := exists_command_body_eq_xferThen hi hne s
  rw [exec_bus hi, hok, admitBus_run hs, hbody, xferThen_cut h hl]
  rfl

/-! ### RESET (R161, R209, R210) -/

/-- An SRES that moved no byte (R209). -/
theorem sresThen_cut {e : Env} {s : State} {k : State → State} (h : s.busAnswer [s.params.codeSres] = ([], e)) :
    sresThen s k =
      raise .busFault .rstSres .none (clearInitialised (moved [s.params.codeSres] [] e (atPhase .rstSres s))) :=
  xferOr_cut (s := atPhase .rstSres s) (k := fun _ s => k s) h Nat.zero_lt_one

/-- What the end of the settle wait leaves (R209). -/
theorem settleBody_eq (s : State) : settleBody s = { s with
    env := s.env.settled, trace := s.trace ++ [.settle], linkMode := .idle, initialised := true, configured := false
    outcome := .ok, detail := ⟨.rstSettle, .none⟩, phase := .none, busy := false, reply := .outcome } := rfl

/-- RESET executes in every state that takes an operation, and goes on to SRES after its pulse (R161, R209). -/
theorem exec_reset {s : State} (hs : HostReady s) : exec .reset s = .next (sresThen { s with
    cs := true, trace := s.trace ++ [.csLow, .csHigh], busy := true, phase := .rstPulse, polls := 0, retries := 0 }
    settleBody) :=
  congrArg Host.Outcome.next (admitOp_run hs rfl)

/-- Settles O26: after the pulse the SRES transaction is complete, and the settle wait ends RESET, or it is short. -/
theorem resetCompletes : Obligations.ResetCompletes := by
  intro e s hs
  rw [exec_reset hs]
  refine ⟨fun m h => ?_, fun h => ?_⟩
  · rw [sresThen_complete (m := m) (e := e), settleBody_eq]
    · simp [atPhase, moved, transaction]
    · exact h
  · rw [sresThen_cut (e := e)]
    · simp [raise, clearInitialised, atPhase, moved, transaction]
    · exact h

/-- A short BUS.SRES ends RESET, and it needs no earlier RESET (R34, R209). -/
theorem exec_busSres_cut {e : Env} {s : State} (hf : s.faulted = false) (hp : s.phase ≠ .rstSettle)
    (h : s.busAnswer [s.params.codeSres] = ([], e)) :
    exec .busSres s = .next { s with
      cs := true, env := e, trace := s.trace ++ [.csLow, .csHigh]
      initialised := false, configured := false
      outcome := .busFault, detail := ⟨.rstSres, .none⟩, phase := .none, busy := false, reply := .outcome } := by
  rw [exec, execBusSres, admitBus_beforeReset hf hp, sresThen_cut (s := setBusy s) h]
  rfl

/-- Settles O47: BUS.SRES completes into the settle wait (O46), whose end leaves what RESET leaves (O26). -/
theorem resetIsPulseSresSettle : Obligations.ResetIsPulseSresSettle := by
  intro e s pulsed hs hp hb hh hpulsed
  subst hpulsed
  obtain ⟨hcomplete, hshort⟩ := resetCompletes e s hs
  have hunsettled : s.phase ≠ .rstSettle := by simp [hp]
  refine ⟨fun m h => ⟨_, busStrobesComplete.2 m e _ hs.1 hunsettled h, rfl, ?_⟩, fun h => ?_⟩
  · rw [hcomplete m h, step_of_idle, stepIdle_of_settling, settleBody_eq]
    · simp
    · rfl
    · exact hs.1
    · exact hb
    · exact hh
  · rw [hshort h, exec_busSres_cut (e := e)]
    · simp
    · exact hs.1
    · exact hunsettled
    · exact h

end Sys2Proof.Machine
end

section
/-! PROOFS. The two faults of the strobes: a host flush outside IDLE (R202), which the block's own sequences never
raise, and a transaction in the settle wait (R210). -/

namespace Sys2Proof.Machine

/-! ### Flushes outside IDLE (R202) -/

/-- After a RESET the gate of a flush is shut while LINK_MODE is TX or RX. -/
theorem gateFault_flush {k : Strobe} {s : State} (hk : Strobe.isFlush k = true) (hi : s.initialised = true)
    (hm : s.linkMode ≠ .idle) : gateFault (.strobe k) s = some .flushNotIdle := by
  simp [gateFault, hk, hi, hm]

/-- The gate of the link operations asks for RESET and CONFIGURE, not for LINK_MODE (R35). -/
theorem gateFault_link_ne_flushNotIdle (s : State) : gateFault .link s ≠ some .flushNotIdle := by
  cases hi : s.initialised with
  | false => simp [gateFault, hi]
  | true => cases hc : s.configured <;> simp [gateFault, hi, hc]

/-- The parameters are p, and no flush outside IDLE has faulted. -/
structure NoFlushFault (p : Params) (s : State) : Prop where
  params : s.params = p
  cause : s.faultCause ≠ some .flushNotIdle

/-- Every other model fault leaves it so. -/
theorem NoFlushFault.modelFault {p : Params} {s : State} (h : NoFlushFault p s) {f : Fault} (hf : f ≠ .flushNotIdle) :
    NoFlushFault p (modelFault f s) :=
  ⟨h.params, fun hc => hf (Option.some.inj hc)⟩

/-- The sequencer's own strobes do not pass the host's gate. -/
theorem samples_noFlushFault (p : Params) : Samples (NoFlushFault p) (NoFlushFault p) where
  toTransacts := .keeping (fun _ _ h => { h with }) (fun _ _ h => { h with }) fun _ _ _ _ h => { h with }
  mode _ _ h := { h with }
  line _ h := { h with }
  polls _ _ h := { h with }
  retries _ _ h := { h with }

/-- RECEIVE's one fault of its own is F_UNWRITTEN (R402). -/
theorem NoFlushFault.receiveBody {p : Params} {s : State} (h : NoFlushFault p s) : NoFlushFault p (receiveBody s) :=
  (samples_noFlushFault p).receiveBody (size := p.rxBufLen) (fun _ ht => { ht with }) (fun _ ht => { ht with })
    (fun _ ht => congrArg Params.rxBufLen ht.params) (fun _ _ _ ht => { ht with })
    (fun _ ht _ => ht.modelFault nofun) h

theorem NoFlushFault.sendBody {p : Params} {s : State} (h : NoFlushFault p s) (dest : Byte) (d : List Byte) :
    NoFlushFault p (sendBody dest d s) :=
  (samples_noFlushFault p).sendBody { h with }

/-- The admission of a link operation raises F_BUSY and the faults of its gate (R404). -/
theorem NoFlushFault.admitOp_link {p : Params} {refused : Bool} {arg : Option ArgOutcome} {s : State}
    {body : State → State} (h : NoFlushFault p s) (hbody : NoFlushFault p (body (beginOp s))) :
    NoFlushFault p (admitOp refused arg .link s body) :=
  admitOp_cases (fun _ => h) (fun _ _ => h.modelFault nofun) (fun _ _ => { h with }) (fun _ _ _ _ => { h with })
    (fun _ _ _ _ hg => h.modelFault fun hf => gateFault_link_ne_flushNotIdle s (hf ▸ hg)) fun _ _ _ _ => hbody

/-- Settles O16: a flush code names a flush, whose gate is shut; a link operation is gated otherwise, and its own
strobes are not gated. -/
theorem flushOutsideIdleFaults : Obligations.FlushOutsideIdleFaults := by
  refine ⟨fun s code hs hcode hm => ?_, fun s t i hi hcause ht => ?_⟩
  · obtain ⟨hready, hinit⟩ := hs
    obtain ⟨k, hk, hflush⟩ := Strobe.ofCode_flush hcode
    rw [exec, execStrobe, hk]
    exact congrArg Host.Outcome.next (admitOp_gate hready (gateFault_flush hflush hinit hm))
  · have h : NoFlushFault s.params s := ⟨rfl, hcause⟩
    have hbegun : NoFlushFault s.params (beginOp s) := { h with }
    rcases hi with rfl | ⟨dest, d, rfl⟩ <;> cases ht
    · exact (h.admitOp_link hbegun.receiveBody).cause
    · exact (h.admitOp_link (hbegun.sendBody dest d)).cause

/-! ### The settle wait (R210) -/

/-- A frame that the block sends, begun in the settle wait. -/
theorem admitBus_settling {needsInit : Bool} {s : State} {body : State → State} (hf : s.faulted = false)
    (hp : s.phase = .rstSettle) : admitBus true needsInit s body = modelFault .settle s := by
  simp [admitBus, hf, hp]

/-- An admitted bus command, SRES included, is one the block sends. -/
theorem command_ok_eq_true {p : Params} {i : Instr} (hi : i.isBus = true) (h : Admitted p i) :
    (command p i).ok = true := by
  by_cases hs : i = .busSres
  · rw [hs, command]
  · exact (command_of_admitted hi hs h).1

/-- Settles O17: a bus command asks for the settle wait as soon as its frame is admitted. -/
theorem settleWaitFaults : Obligations.SettleWaitFaults := by
  intro i s hi hf ha hp
  rw [exec_bus hi, command_ok_eq_true hi ha, admitBus_settling hf hp, modelFault]

end Sys2Proof.Machine
end

section
/-! PROOFS. Building frames (42_framing.md): the size that BUILD_FRAME and SEND ask for, the frame stored, and the
round trip through PARSE_FRAME (R243, R247, R248). -/

namespace Sys2Proof.Machine

/-! ### The payload's size (R242, R248) -/

/-- A payload too large for MAX_FRAME reports an argument outcome. -/
theorem sizeArg_eq_some {m : Nat} {d : List Byte} (h : m < d.length + 2) :
    sizeArg m d = some ⟨.payloadTooLarge, .sCheck, .none⟩ := if_pos (payloadTooLarge_iff.2 h)

/-- A payload that fits reports none. -/
theorem sizeArg_eq_none {m : Nat} {d : List Byte} (h : d.length + 2 ≤ m) : sizeArg m d = none :=
  if_neg (mt payloadTooLarge_iff.1 (Nat.not_lt.2 h))

/-- Settles O20: the payload's size is an argument outcome, which no state fault goes before (R404). -/
theorem payloadTooLargeNoBusActivity : Obligations.PayloadTooLargeNoBusActivity := by
  intro i dest d s hs hsize hi
  rcases hi with rfl | rfl
  · exact exec_argument (i := .buildFrame dest d) hs rfl trivial (sizeArg_eq_some hsize)
  · exact exec_argument (i := .send dest d) hs rfl trivial (sizeArg_eq_some hsize)

/-! ### The frame stored (R243) -/

/-- BUILD_FRAME of a payload that fits ends in OK with the frame stored. -/
theorem exec_buildFrame_fits {dest : Byte} {d : List Byte} {s : State} (hs : HostReady s)
    (hsize : d.length + 2 ≤ s.params.maxFrame) :
    exec (.buildFrame dest d) s = .next (raise .ok .none .none (storeFrame (frameOf dest d) (beginOp s))) := by
  rw [exec, execBuildFrame, sizeArg_eq_none hsize, admitOp_run hs (gateFault_ungated s)]

/-- Settles O28: what the frame's storing writes, and then OK. -/
theorem buildFrameCompletes : Obligations.BuildFrameCompletes := by
  intro dest d s hs hsize
  rw [exec_buildFrame_fits hs hsize]
  rfl

/-! ### The round trip (R247) -/

/-- A frame is its payload and two bytes before it (R240). -/
@[simp] theorem frameOf_length (dest : Byte) (d : List Byte) : (frameOf dest d).length = d.length + 2 := rfl

/-- TX_FRAME reads back as the frame stored last (R41). -/
@[simp] theorem storeFrame_txFrameBytes (f : List Byte) (s : State) : (storeFrame f s).txFrameBytes = f := by
  simp [State.txFrameBytes]

@[simp] theorem raise_txFrameBytes (o : OutcomeCode) (p : Phase) (sub : SubReason) (s : State) :
    (raise o p sub s).txFrameBytes = s.txFrameBytes := rfl

/-- PARSE_FRAME of a whole frame, with nothing after it, gives back what the frame was made of (R241, R244). -/
theorem exec_parseFrame_frameOf {dest : Byte} {d : List Byte} {s : State} (hs : HostReady s)
    (hlen : d.length + 1 < 2 ^ 8) :
    ∃ u, exec (.parseFrame (frameOf dest d)) s = .next u ∧ u.outcome = .ok ∧
      u.pfLen.toNat = d.length + 1 ∧ u.pfAddr = dest ∧ u.pfPayload = d := by
  have hbytes : frameOf dest d = BitVec.ofNat 8 (d.length + 1) :: dest :: (d ++ []) := by
    rw [frameOf, List.append_nil]
  have hcount : (BitVec.ofNat 8 (d.length + 1)).toNat = d.length + 1 :=
    (BitVec.toNat_ofNat _ _).trans (Nat.mod_eq_of_lt hlen)
  obtain ⟨-, -, -, hparse⟩ := parseFrameCompletes (frameOf dest d) s hs
  exact ⟨_, hparse _ dest d [] hbytes hcount, rfl, hcount, rfl, rfl⟩

/-- Settles O30: TX_FRAME reads back as the frame BUILD_FRAME stored (O28), and PARSE_FRAME of it is a case of O29. -/
theorem frameRoundTrips : Obligations.FrameRoundTrips := by
  intro d addr s hs hlegal hsize
  have hready : HostReady (raise .ok .none .none (storeFrame (frameOf addr d) (beginOp s))) := ⟨hs.1, rfl⟩
  obtain ⟨u, hparse, hfields⟩ := exec_parseFrame_frameOf (dest := addr) (d := d) hready (by omega)
  refine ⟨_, u, exec_buildFrame_fits hs hsize, rfl, ?_, ?_, hfields⟩
  · rw [raise_txFrameBytes, storeFrame_txFrameBytes, frameOf_length]
  · rw [raise_txFrameBytes, storeFrame_txFrameBytes, hparse]

end Sys2Proof.Machine
end

section
/-! PROOFS. SEND on settled answers (43_link.md R271 to R274): where the operation stands after each part of it, and how
it ends. -/

namespace Sys2Proof.Machine

/-! ### Where SEND stands -/

/-- A SEND that began in s stands in t: the frame f is in TX_FRAME, LINK_MODE is `mode`, the trace is `tr`, and the
answers `rest` and `lines` are left. -/
structure InSend (s : State) (f : List Byte) (mode : LinkMode) (tr : List Event) (rest : List (List Byte))
    (lines : List Bool) (t : State) : Prop where
  linkMode : t.linkMode = mode
  cs : t.cs = true
  params : t.params = s.params
  txFrameBytes : t.txFrameBytes = f
  txFrameLen : t.txFrameLen = f.length
  settled : Settled t rest lines
  trace : t.trace = tr
  faulted : t.faulted = s.faulted

section
variable {s t : State} {f : List Byte} {mode : LinkMode} {tr : List Event} {rest : List (List Byte)}
  {lines later : List Bool} {m m₁ m₂ : Byte}

/-- A complete strobe. -/
theorem InSend.strobeAt (h : InSend s f mode tr ([m] :: rest) lines t) (p : Phase) (c : Strobe) :
    ∃ u, (∀ k, strobeAt p c t k = k u) ∧ u.phase = p ∧
      InSend s f (Strobe.modeAfter c mode) (tr ++ strobed (c.code s.params) m) rest lines u := by
  obtain ⟨hsource, htape, hline⟩ := h.settled
  refine ⟨_, fun _ => strobeAt_settled hsource htape, rfl, ?_⟩
  exact { h with
    linkMode := congrArg (Strobe.modeAfter c) h.linkMode
    cs := rfl
    settled := ⟨hsource, rfl, hline⟩
    trace := by rw [← h.params, ← h.trace]; rfl }

/-- SIDLE and SFTX, with which SEND leaves a transmission (R272, R273). -/
theorem InSend.idleFlush (h : InSend s f mode tr ([m₁] :: [m₂] :: rest) lines t) (p₁ p₂ : Phase) :
    ∃ u, (∀ k, Machine.strobeAt p₁ .sidle t (fun v => Machine.strobeAt p₂ .sftx v k) = k u) ∧ u.phase = p₂ ∧
      InSend s f .idle (tr ++ strobed s.params.codeSidle m₁ ++ strobed s.params.codeSftx m₂) rest lines u := by
  obtain ⟨v, hv, -, hv'⟩ := h.strobeAt p₁ .sidle
  obtain ⟨u, hu, hphase, hu'⟩ := hv'.strobeAt p₂ .sftx
  exact ⟨u, fun k => (hv _).trans (hu k), hphase, hu'⟩

theorem InSend.polled {ls : List Bool} (h : InSend s f mode tr rest lines t) :
    InSend s f mode (tr ++ samples ls) rest later (polled p ls later t) :=
  { h with
    settled := ⟨h.settled.1, h.settled.2.1, rfl⟩
    trace := congrArg (· ++ samples ls) h.trace }

/-- The recovery from a wait that timed out (R273). -/
theorem InSend.txRecover (h : InSend s f mode tr ([m₁] :: [m₂] :: rest) lines t) (waiting : Phase) :
    ∃ u, txRecover waiting t = raise .txTimeout waiting .none u ∧
      InSend s f .idle (tr ++ strobed s.params.codeSidle m₁ ++ strobed s.params.codeSftx m₂) rest lines u := by
  obtain ⟨u, hu, -, hu'⟩ := h.idleFlush .sToIdle .sToFlush
  exact ⟨u, hu _, hu'⟩

end

/-! ### The parts of SEND (R272) -/

/-- SEND from the start of the transmission on: the wait for its end, then SIDLE and SFTX. -/
def sendStarted (s : State) : State :=
  pollAt .sWaitEnd false s.params.txEndPolls s (txRecover .sWaitEnd) fun s =>
  strobeAt .sIdle2 .sidle s fun s =>
  strobeAt .sFlush2 .sftx s sendFinish

/-- SEND from STX on. -/
def sendTransmitting (s : State) : State :=
  pollAt .sWaitStart true s.params.txStartPolls s (txRecover .sWaitStart) sendStarted

theorem sendBody_eq (dest : Byte) (d : List Byte) (s : State) : sendBody dest d s =
    strobeAt .sIdle1 .sidle (storeFrame (frameOf dest d) s) fun s =>
      strobeAt .sFlush1 .sftx s fun s =>
      xferAt .sLoad (frameWriteBurst s.params.addrFifo (frameOf dest d)) s fun _ s =>
      strobeAt .sStx .stx s sendTransmitting := rfl

theorem sendFinish_idle {s : State} (h : s.params.rxAfterTx = false) : sendFinish s = raise .ok s.phase .none s := by
  rw [sendFinish, if_neg (by simp [h])]

theorem sendFinish_rx {s : State} (h : s.params.rxAfterTx = true) : sendFinish s =
    strobeAt .sRxFlush .sfrx s fun s => strobeAt .sRxEnter .srx s fun s => raise .ok s.phase .none s := by
  rw [sendFinish, if_pos h]

/-- SEND of a payload that fits executes (R248, R272). -/
theorem exec_send {dest : Byte} {d : List Byte} {s : State} (h : LinkReady s)
    (hsize : d.length + 2 ≤ s.params.maxFrame) : exec (.send dest d) s = .next (sendBody dest d (beginOp s)) := by
  obtain ⟨⟨hready, hinit⟩, hconf⟩ := h
  rw [exec, execSend, sizeArg_eq_none hsize, admitOp_run hready (gateFault_link hinit hconf)]

section
variable (dest : Byte) {m₁ m₂ m₄ m₅ m₆ : Byte} {d m₃ : List Byte} {rest : List (List Byte)} {i j : Nat}
  {lines : List Bool} {s : State}

/-- The trace of a SEND up to STX. -/
abbrev sendLoaded (s : State) (dest : Byte) (d : List Byte) (m₁ m₂ : Byte) (m₃ : List Byte) (m₄ : Byte) : List Event :=
  s.trace ++ strobed s.params.codeSidle m₁ ++ strobed s.params.codeSftx m₂ ++
    transaction (loadFrame s.params dest d) m₃ ++ strobed s.params.codeStx m₄

/-- The frame is loaded and STX sent. -/
theorem exec_send_transmitting (hs : LinkReady s) (hsize : d.length + 2 ≤ s.params.maxFrame)
    (hload : m₃.length = d.length + 3) (h : Settled s ([m₁] :: [m₂] :: m₃ :: [m₄] :: rest) lines) :
    ∃ t, exec (.send dest d) s = .next (sendTransmitting t) ∧
      InSend s (frameOf dest d) .tx (sendLoaded s dest d m₁ m₂ m₃ m₄) rest lines t := by
  obtain ⟨hsource, htape, hline⟩ := h
  rw [exec_send hs hsize, sendBody_eq,
    strobeAt_settled (s := storeFrame (frameOf dest d) (beginOp s)) hsource htape,
    strobeAt_settled (rest := m₃ :: [m₄] :: rest) (by exact hsource) rfl,
    xferAt_settled (a := m₃) (rest := [m₄] :: rest) (by exact hsource) rfl (by simpa [frameWriteBurst] using hload),
    strobeAt_settled (rest := rest) (by exact hsource) rfl, frameWriteBurst_frameOf]
  exact ⟨_, rfl, rfl, rfl, rfl, storeFrame_txFrameBytes _ _, rfl, ⟨hsource, rfl, hline⟩, rfl, rfl⟩

/-- The transmission has started within the budget (R271, R272). -/
theorem exec_send_started (hs : LinkReady s) (hsize : d.length + 2 ≤ s.params.maxFrame)
    (hload : m₃.length = d.length + 3) (hi : i < s.params.txStartPolls)
    (h : Settled s ([m₁] :: [m₂] :: m₃ :: [m₄] :: rest) (List.replicate i false ++ true :: lines)) :
    ∃ t, exec (.send dest d) s = .next (sendStarted t) ∧
      InSend s (frameOf dest d) .tx
        (sendLoaded s dest d m₁ m₂ m₃ m₄ ++ samples (List.replicate i false ++ [true])) rest lines t := by
  obtain ⟨t, hexec, ht⟩ := exec_send_transmitting dest hs hsize hload h
  obtain ⟨hsource, -, hline⟩ := ht.settled
  rw [hexec, sendTransmitting, pollAt_met (level := true) (by rw [ht.params]; exact hi) hsource hline]
  exact ⟨_, rfl, ht.polled⟩

/-- The transmission has started and ended on a line as CHIP_CONFIG_OK says, and SIDLE and SFTX follow (R272, R372). -/
theorem exec_send_flushed (hs : LinkReady s) (hsize : d.length + 2 ≤ s.params.maxFrame)
    (hload : m₃.length = d.length + 3) (hi : i < s.params.txStartPolls) (hj : j < s.params.txEndPolls)
    (hok : ChipConfigOk.Sending i j s.env.lineTape lines) (hsource : s.env.source = .oracle)
    (htape : s.env.busTape = [m₁] :: [m₂] :: m₃ :: [m₄] :: [m₅] :: [m₆] :: rest) :
    ∃ t, exec (.send dest d) s = .next (sendFinish t) ∧ t.phase = .sFlush2 ∧
      InSend s (frameOf dest d) .idle
        (sendLoaded s dest d m₁ m₂ m₃ m₄ ++ samples (List.replicate i false ++ [true]) ++
          samples (List.replicate j true ++ [false]) ++ strobed s.params.codeSidle m₅ ++
          strobed s.params.codeSftx m₆) rest lines t := by
  obtain ⟨t, hexec, ht⟩ := exec_send_started dest hs hsize hload hi ⟨hsource, htape, hok.startThenEnd⟩
  obtain ⟨hsource', -, hline⟩ := ht.settled
  rw [hexec, sendStarted, pollAt_met (level := false) (by rw [ht.params]; exact hj) hsource' hline]
  obtain ⟨u, hu, hphase, hu'⟩ := (ht.polled (p := .sWaitEnd)).idleFlush .sIdle2 .sFlush2
  exact ⟨u, congrArg _ (hu sendFinish), hphase, hu'⟩

end

/-! ### SEND's ends (R272 to R274) -/

/-- Settles O31: without RX_AFTER_TX SEND ends where the last flush leaves it. -/
theorem sendCompletes : Obligations.SendCompletes := by
  intro dest d m₁ m₂ m₄ m₅ m₆ m₃ rest i j lines s hs hrx hsize hi hj hload hok hsource htape
  obtain ⟨t, hexec, hphase, ht⟩ := exec_send_flushed dest hs hsize hload hi hj hok hsource htape
  rw [sendFinish_idle (by rw [ht.params, hrx]), hphase] at hexec
  obtain ⟨⟨⟨hf, -⟩, -⟩, -⟩ := hs
  exact ⟨_, hexec, concludes_raise ht.cs _ _ _, ht.linkMode, ht.txFrameBytes, ht.txFrameLen, ht.settled,
    ht.faulted.trans hf, ht.trace⟩

/-- Settles O32: with RX_AFTER_TX two more strobes follow the last flush. -/
theorem sendReentersRx : Obligations.SendReentersRx := by
  intro dest d m₁ m₂ m₄ m₅ m₆ m₇ m₈ m₃ rest i j lines s hs hrx hsize hi hj hload hok hsource htape
  obtain ⟨t, hexec, -, ht⟩ := exec_send_flushed dest hs hsize hload hi hj hok hsource htape
  obtain ⟨u, hu, -, hu'⟩ := ht.strobeAt .sRxFlush .sfrx
  obtain ⟨v, hv, hphase, hv'⟩ := hu'.strobeAt .sRxEnter .srx
  rw [sendFinish_rx (by rw [ht.params, hrx]), hu, hv, hphase] at hexec
  obtain ⟨⟨⟨hf, -⟩, -⟩, -⟩ := hs
  exact ⟨_, hexec, concludes_raise hv'.cs _ _ _, hv'.linkMode, hv'.settled, hv'.faulted.trans hf, hv'.trace⟩

/-- Settles O33: each wait that runs out of samples goes to `txRecover`, which does not ask RX_AFTER_TX. -/
theorem sendTimesOut : Obligations.SendTimesOut := by
  intro dest d m₁ m₂ m₄ m₅ m₆ m₃ rest i lines s hs hsize hload hsource htape
  refine ⟨fun hline => ?_, fun hi hline => ?_⟩
  · obtain ⟨t, hexec, ht⟩ := exec_send_transmitting dest hs hsize hload ⟨hsource, htape, hline⟩
    obtain ⟨hsource', -, hline'⟩ := ht.settled
    obtain ⟨u, hu, hu'⟩ := (ht.polled (p := .sWaitStart)).txRecover .sWaitStart
    rw [sendTransmitting, ht.params, pollAt_timeout (level := true) hsource' hline', hu] at hexec
    exact ⟨_, hexec, concludes_raise hu'.cs _ _ _, hu'.linkMode, hu'.settled, hu'.trace⟩
  · obtain ⟨t, hexec, ht⟩ := exec_send_started dest hs hsize hload hi ⟨hsource, htape, hline⟩
    obtain ⟨hsource', -, hline'⟩ := ht.settled
    obtain ⟨u, hu, hu'⟩ := (ht.polled (p := .sWaitEnd)).txRecover .sWaitEnd
    rw [sendStarted, ht.params, pollAt_timeout (level := false) hsource' hline', hu] at hexec
    exact ⟨_, hexec, concludes_raise hu'.cs _ _ _, hu'.linkMode, hu'.settled, hu'.trace⟩

end Sys2Proof.Machine
end

section
/-! PROOFS. What a link operation may spend (R295) and the LINK_MODE it ends in (R294): SEND and RECEIVE walked once,
with what is left of their transactions and samples. -/

namespace Sys2Proof.Machine

/-! ### Counting events -/

theorem transactionCount_append (es fs : List Event) :
    transactionCount (es ++ fs) = transactionCount es + transactionCount fs := List.countP_append

theorem sampleCount_append (es fs : List Event) : sampleCount (es ++ fs) = sampleCount es + sampleCount fs :=
  List.countP_append

theorem transactionCount_transaction (mosi miso : List Byte) : transactionCount (transaction mosi miso) = 1 := by
  simp [transactionCount, transaction, List.countP_append, List.countP_map, Function.comp_def]

theorem sampleCount_transaction (mosi miso : List Byte) : sampleCount (transaction mosi miso) = 0 := by
  simp [sampleCount, transaction, List.countP_append, List.countP_map, Function.comp_def]

theorem sampleCount_sample (l : Bool) : sampleCount [.sample l] = 1 := by
  cases l <;> rfl

/-- From s to t the trace grows by at most n transactions and m samples. -/
def SpendsAtMost (n m : Nat) (s t : State) : Prop :=
  ∃ es, t.trace = s.trace ++ es ∧ transactionCount es ≤ n ∧ sampleCount es ≤ m

/-! ### Allowances -/

/-- How many transactions and samples a link operation may spend, and the LINK_MODEs it may end in, unless it ends in
BUS_FAULT. -/
structure Allowance where
  transactions : Nat
  samples : Nat
  modes : List LinkMode

namespace Allowance

/-- From s to its end in t an operation has kept to its allowance. -/
structure Kept (a : Allowance) (s t : State) : Prop where
  trace : SpendsAtMost a.transactions a.samples s t
  mode : t.outcome = .busFault ∨ t.linkMode ∈ a.modes

/-- An operation that began in s stands in t, in the LINK_MODE given, with n transactions and m samples left. -/
structure Left (a : Allowance) (s : State) (mode : LinkMode) (n m : Nat) (t : State) : Prop where
  linkMode : t.linkMode = mode
  params : t.params = s.params
  trace : ∃ es, t.trace = s.trace ++ es ∧
    transactionCount es + n ≤ a.transactions ∧ sampleCount es + m ≤ a.samples

namespace Left
variable {a : Allowance} {s t u : State} {mode : LinkMode} {n m : Nat}

/-- What is spent by events that are put on the trace. -/
theorem append {es : List Event} {n' m' : Nat} (h : a.Left s mode n m t) (hl : u.linkMode = t.linkMode)
    (hp : u.params = t.params) (ht : u.trace = t.trace ++ es) (hn : transactionCount es + n' ≤ n)
    (hm : sampleCount es + m' ≤ m) : a.Left s mode n' m' u := by
  obtain ⟨fs, hfs, htransactions, hsamples⟩ := h.trace
  refine ⟨hl.trans h.linkMode, hp.trans h.params, fs ++ es, by rw [ht, hfs, List.append_assoc], ?_, ?_⟩
  · rw [transactionCount_append]
    omega
  · rw [sampleCount_append]
    omega

/-- An operation begins with its whole allowance. -/
theorem start (hn : n ≤ a.transactions) (hm : m ≤ a.samples) : a.Left s s.linkMode n m (beginOp s) :=
  ⟨rfl, rfl, [], (List.append_nil _).symm, by simpa [transactionCount], by simpa [sampleCount]⟩

theorem weaken {n' m' : Nat} (h : a.Left s mode n m t) (hn : n' ≤ n) (hm : m' ≤ m) : a.Left s mode n' m' t :=
  h.append (es := []) rfl rfl (List.append_nil _).symm (by simpa [transactionCount]) (by simpa [sampleCount])

/-- Where an operation ends, nothing more is put on the trace. -/
theorem ends (h : a.Left s mode n m t) (ht : u.trace = t.trace) (hu : u.outcome = .busFault ∨ u.linkMode ∈ a.modes) :
    a.Kept s u := by
  obtain ⟨es, hes, htransactions, hsamples⟩ := h.trace
  exact ⟨⟨es, ht.trans hes, by omega, by omega⟩, hu⟩

/-- An operation ends in its LINK_MODE. -/
theorem endsIn (h : a.Left s mode n m t) (ht : u.trace = t.trace) (hl : u.linkMode = t.linkMode)
    (hmode : mode ∈ a.modes) : a.Kept s u :=
  h.ends ht (.inr (by rwa [hl, h.linkMode]))

theorem setRetries (h : a.Left s mode n m t) (k : Nat) : a.Left s mode n m (setRetries k t) := { h with }

theorem sampleLine (h : a.Left s mode n (m + 1) t) : a.Left s mode n m (sampleLine t).2 :=
  h.append rfl rfl rfl (by simp [transactionCount]) (by rw [sampleCount_sample]; omega)

/-! ### Transactions and strobes (R160, R200) -/

theorem xferAt (h : a.Left s mode (n + 1) m t) {p : Phase} {mosi : List Byte} {k : List Byte → State → State}
    (hk : ∀ miso u, a.Left s mode n m u → a.Kept s (k miso u)) : a.Kept s (xferAt p mosi t k) := by
  have hsent : a.Left s mode n m (xfer mosi (atPhase p t)).2 :=
    h.append rfl rfl (by rw [xfer_trace, transactionEvents_eq]; rfl) (by rw [transactionCount_transaction]; omega)
      (by rw [sampleCount_transaction]; omega)
  exact xferOr_cases (fun _ => hsent.ends rfl (.inl rfl)) fun _ => hk _ _ hsent

theorem readStatusAt (h : a.Left s mode (n + 1) m t) {p : Phase} {r : Addr} {k : Byte → State → State}
    (hk : ∀ v u, a.Left s mode n m u → a.Kept s (k v u)) : a.Kept s (readStatusAt p r t k) :=
  h.xferAt fun _ _ hu => hk _ _ hu

theorem strobeAt (h : a.Left s mode (n + 1) m t) {p : Phase} {c : Strobe} {k : State → State}
    (hk : ∀ u, a.Left s (Strobe.modeAfter c mode) n m u → a.Kept s (k u)) : a.Kept s (strobeAt p c t k) :=
  h.xferAt fun _ _ hu => hk _ { hu with linkMode := congrArg (Strobe.modeAfter c) hu.linkMode }

/-! ### The completion line (R271) -/

theorem pollLoop (level : Bool) (b : Nat) {t : State} (h : a.Left s mode n (m + b) t) :
    a.Left s mode n m (pollLoop level b t).2 := by
  induction b generalizing t with
  | zero => exact h
  | succ b ih =>
    have hpolled : a.Left s mode n (m + b) (setPolls ((Machine.sampleLine t).2.polls + 1) (Machine.sampleLine t).2) :=
      { h.sampleLine with }
    rw [Machine.pollLoop]
    split
    · exact hpolled.weaken le_rfl (Nat.le_add_right _ _)
    · exact ih hpolled

theorem pollAt {b : Nat} (h : a.Left s mode n (m + b) t) {p : Phase} {level : Bool} {budget : Nat}
    {onTimeout k : State → State} (hb : budget = b) (ht : ∀ u, a.Left s mode n m u → a.Kept s (onTimeout u))
    (hk : ∀ u, a.Left s mode n m u → a.Kept s (k u)) : a.Kept s (pollAt p level budget t onTimeout k) := by
  subst hb
  have hpoll : a.Left s mode n m (Machine.pollLoop level budget (setPolls 0 (atPhase p t))).2 :=
    pollLoop level budget { h with }
  rw [Machine.pollAt, pollUntil]
  revert hpoll
  rcases Machine.pollLoop level budget (setPolls 0 (atPhase p t)) with ⟨_ | _, u⟩ <;> intro hpoll
  · exact ht u hpoll
  · exact hk u hpoll

/-! ### SEND (R272, R273) -/

section
variable (hidle : .idle ∈ a.modes)
include hidle

theorem txRecover (h : a.Left s mode (n + 2) m t) (p : Phase) : a.Kept s (txRecover p t) :=
  h.strobeAt fun _ hu => hu.strobeAt fun _ hu => hu.endsIn rfl rfl hidle

/-- The re-entry into RX costs two transactions (R274). -/
theorem sendFinish (hrx : .rx ∈ a.modes) (h : a.Left s .idle (if s.params.rxAfterTx then 2 else 0) m t) :
    a.Kept s (sendFinish t) := by
  cases hafter : s.params.rxAfterTx with
  | false =>
    rw [sendFinish_idle (by rw [h.params, hafter])]
    exact h.endsIn rfl rfl hidle
  | true =>
    rw [if_pos hafter] at h
    rw [sendFinish_rx (by rw [h.params, hafter])]
    exact h.strobeAt fun _ hu => hu.strobeAt fun _ hu => hu.endsIn rfl rfl hrx

theorem sendBody (hrx : .rx ∈ a.modes)
    (h : a.Left s mode ((if s.params.rxAfterTx then 2 else 0) + 6) (m + s.params.txEndPolls + s.params.txStartPolls) t)
    (dest : Byte) (d : List Byte) : a.Kept s (sendBody dest d t) :=
  have hstored : a.Left s mode _ _ (storeFrame (frameOf dest d) t) := { h with }
  hstored.strobeAt fun _ hu =>
  hu.strobeAt fun _ hu =>
  hu.xferAt fun _ _ hu =>
  hu.strobeAt fun _ hu =>
  hu.pollAt (congrArg Params.txStartPolls hu.params) (fun _ hv => hv.txRecover hidle _) fun _ hu =>
  hu.pollAt (congrArg Params.txEndPolls hu.params) (fun _ hv => hv.txRecover hidle _) fun _ hu =>
  hu.strobeAt fun _ hu =>
  hu.strobeAt fun _ hu => hu.sendFinish hidle hrx

end

/-! ### RECEIVE (R275 to R287) -/

/-- RX is entered with three transactions. -/
theorem enterRx (h : a.Left s mode (n + 3) m t) {p₁ p₂ p₃ : Phase} {k : State → State}
    (hk : ∀ u, a.Left s .rx n m u → a.Kept s (k u)) : a.Kept s (enterRx p₁ p₂ p₃ t k) :=
  h.strobeAt fun _ hu => hu.strobeAt fun _ hu => hu.strobeAt hk

section
variable (hrx : .rx ∈ a.modes)
include hrx

theorem countLoop (b : Nat) {c₁ c₂ : Byte} {t : State} (h : a.Left s .rx (n + b) m t) {k : Byte → State → State}
    (hk : ∀ c u, a.Left s .rx n m u → a.Kept s (k c u)) : a.Kept s (countLoop b c₁ c₂ t k) := by
  induction b generalizing c₁ c₂ t with
  | zero =>
    rw [Machine.countLoop]
    split
    · exact hk _ _ h
    · exact h.endsIn rfl rfl hrx
  | succ b ih =>
    rw [Machine.countLoop]
    split
    · exact hk _ _ (h.weaken (Nat.le_add_right _ _) le_rfl)
    · exact h.readStatusAt (n := n + b) fun _ _ hu => ih (hu.setRetries _)

/-- Two reads of RXBYTES, and at most COUNT_AGREE_RETRIES more (R276). -/
theorem stableCount (h : a.Left s .rx (n + s.params.countAgreeRetries + 2) m t) {k : Byte → State → State}
    (hk : ∀ c u, a.Left s .rx n m u → a.Kept s (k c u)) : a.Kept s (stableCount t k) :=
  h.readStatusAt fun _ _ hu => hu.readStatusAt fun _ v hv =>
    countLoop hrx v.params.countAgreeRetries (hv.params.symm ▸ hv.setRetries 0) hk

theorem receiveImage (h : a.Left s .rx 3 m t) (r : List Byte) (count : Nat) : a.Kept s (receiveImage r count t) := by
  have hresume : ∀ {v : State} {k : State → State}, a.Left s .rx 3 m v → (∀ u, (k u).trace = u.trace) →
      (∀ u, (k u).linkMode = u.linkMode) → a.Kept s (resumeRx v k) :=
    fun hv ht hl => hv.enterRx fun u hu => hu.endsIn (ht u) (hl u) hrx
  simp only [Machine.receiveImage]
  split
  · exact hresume { h with } (fun _ => rfl) fun _ => rfl
  split
  · exact hresume { h with } (fun _ => rfl) fun _ => rfl
  split
  · exact h.endsIn rfl rfl hrx
  split
  · exact hresume { h with } (fun _ => rfl) fun _ => rfl
  · exact hresume { h with } (fun _ => rfl) fun _ => rfl

/-- After the count come at most MARCSTATE's read, the burst read, and three strobes. -/
theorem receiveCounted (h : a.Left s .rx 5 m t) (count : Nat) : a.Kept s (receiveCounted count t) := by
  by_cases hc : count = 0
  · rw [hc, receiveCounted_zero]
    exact h.endsIn rfl rfl hrx
  rw [receiveCounted_pos hc]
  refine h.readStatusAt fun _ u hu => ?_
  have hovf : ∀ sub, a.Kept s (overflow sub u) := fun _ =>
    (hu.weaken (n' := 3) (by decide) le_rfl).enterRx fun _ hv => hv.endsIn rfl rfl hrx
  rw [receiveStated]
  split
  · exact hovf _
  split
  · exact hovf _
  · exact hu.xferAt fun _ _ hv => hv.receiveImage hrx _ _

theorem receiveBody (h : a.Left s mode (5 + s.params.countAgreeRetries + 5) (m + s.params.rxPolls) t) :
    a.Kept s (receiveBody t) := by
  have hdrawn : a.Left s mode (5 + s.params.countAgreeRetries + 5) (m + s.params.rxPolls) (drawReceive t) := { h with }
  rw [receiveBody_eq]
  exact hdrawn.enterRx fun _ hu =>
    hu.pollAt (congrArg Params.rxPolls hu.params) (fun _ hv => hv.endsIn rfl rfl hrx) fun _ hu =>
    hu.stableCount hrx fun _ _ hv => hv.receiveCounted hrx _

end

end Left

end Allowance

/-! ### The two operations -/

/-- SEND's allowance (R295); it ends in IDLE or, with RX_AFTER_TX, in RX. -/
def sendAllowance (p : Params) : Allowance :=
  ⟨if p.rxAfterTx then 8 else 6, p.txStartPolls + p.txEndPolls, [.idle, .rx]⟩

/-- RECEIVE's allowance (R295); it ends in RX (R294). -/
def receiveAllowance (p : Params) : Allowance := ⟨10 + p.countAgreeRetries, p.rxPolls, [.rx]⟩

theorem sendBody_kept (dest : Byte) (d : List Byte) (s : State) :
    (sendAllowance s.params).Kept s (sendBody dest d (beginOp s)) := by
  have hbegun : (sendAllowance s.params).Left s s.linkMode ((if s.params.rxAfterTx then 2 else 0) + 6)
      (0 + s.params.txEndPolls + s.params.txStartPolls) (beginOp s) := by
    refine .start ?_ ?_
    · cases hafter : s.params.rxAfterTx <;> simp [sendAllowance, hafter]
    · simp only [sendAllowance]
      omega
  exact hbegun.sendBody (by simp [sendAllowance]) (by simp [sendAllowance]) dest d

theorem receiveBody_kept (s : State) : (receiveAllowance s.params).Kept s (receiveBody (beginOp s)) := by
  have hbegun : (receiveAllowance s.params).Left s s.linkMode (5 + s.params.countAgreeRetries + 5)
      (0 + s.params.rxPolls) (beginOp s) := by
    refine .start ?_ ?_ <;> simp only [receiveAllowance] <;> omega
  exact hbegun.receiveBody (by simp [receiveAllowance])

/-- An operation that does not execute puts nothing on the trace (R404). -/
theorem spendsAtMost_admitOp {n m : Nat} {refused : Bool} {arg : Option ArgOutcome} {g : Gate} {s : State}
    {body : State → State} (hbody : SpendsAtMost n m s (body (beginOp s))) :
    SpendsAtMost n m s (admitOp refused arg g s body) := by
  have hnone : ∀ t : State, t.trace = s.trace → SpendsAtMost n m s t :=
    fun t ht => ⟨[], by rw [ht, List.append_nil], Nat.zero_le _, Nat.zero_le _⟩
  exact admitOp_cases (fun _ => hnone _ rfl) (fun _ _ => hnone _ rfl) (fun _ _ => hnone _ rfl)
    (fun _ _ _ _ => hnone _ rfl) (fun _ _ _ _ _ => hnone _ rfl) fun _ _ _ _ => hbody

/-- Settles O57: an operation that executes keeps to its allowance, and one that does not execute spends nothing. -/
theorem linkOperationsAreBounded : Obligations.LinkOperationsAreBounded := by
  refine ⟨fun dest d s t ht => ?_, fun s t ht => ?_⟩ <;> cases ht
  · exact spendsAtMost_admitOp (sendBody_kept dest d s).trace
  · exact spendsAtMost_admitOp (receiveBody_kept s).trace

/-- Settles O54: RX is what RECEIVE's allowance leaves it, short of BUS_FAULT; this holds at a fault on an unwritten
LOCAL_ADDR too, so the invariant is not asked for. -/
theorem receiveEndsInRx : Obligations.ReceiveEndsInRx := by
  intro s t _ hs ht hne
  rw [exec_receive hs] at ht
  cases ht
  exact List.mem_singleton.1 ((receiveBody_kept s).mode.resolve_left hne)

end Sys2Proof.Machine
end

section
/-! PROOFS. Link quality (44_link_quality.md): a raw RSSI byte in dBm, the class of a dBm value, and the three
operations that write them (R340 to R343). -/

namespace Sys2Proof.Machine

/-! ### dBm (R340) -/

theorem signed8_of_ge {v : Byte} (h : 128 ≤ v.toNat) : signed8 v = (v.toNat : Int) - 256 := if_pos h

theorem signed8_of_lt {v : Byte} (h : v.toNat < 128) : signed8 v = v.toNat := if_neg (Nat.not_le.2 h)

theorem signed8_eq_toInt (v : Byte) : signed8 v = v.toInt := by
  rw [signed8, BitVec.toInt_eq_toNat_cond]
  split <;> split <;> omega

theorem rssiDbm_eq (p : Params) (v : Byte) : rssiDbm p v = Int.tdiv v.toInt 2 - p.rssiOffset := by
  rw [rssiDbm, signed8_eq_toInt]

/-- Halving keeps order, so half of a signed byte is in -64..63. -/
theorem rssiDbm_bounds (p : Params) (v : Byte) :
    -64 - p.rssiOffset ≤ rssiDbm p v ∧ rssiDbm p v ≤ 63 - p.rssiOffset := by
  have hlow : -64 ≤ Int.tdiv v.toInt 2 := Int.tdiv_le_tdiv (by decide) (BitVec.le_toInt v)
  have hhigh : Int.tdiv v.toInt 2 ≤ 63 := Int.tdiv_le_tdiv (by decide) BitVec.toInt_le
  rw [rssiDbm_eq]
  omega

/-! ### Classes (R341) -/

theorem classOf_eq_veryWeak {p : Params} {d : Int} : classOf p d = .veryWeak ↔ d < p.rssiVeryWeakBelow := by
  rw [classOf]
  split_ifs <;> simp <;> omega

theorem classOf_eq_moderate {p : Params} {d : Int} :
    classOf p d = .moderate ↔ p.rssiVeryWeakBelow ≤ d ∧ d < p.rssiStrongFrom := by
  rw [classOf]
  split_ifs <;> simp <;> omega

theorem classOf_eq_strong {p : Params} {d : Int} :
    classOf p d = .strong ↔ p.rssiVeryWeakBelow ≤ d ∧ p.rssiStrongFrom ≤ d := by
  rw [classOf]
  split_ifs <;> simp <;> omega

/-! ### The operations (R340 to R343) -/

/-- Settles O42: RSSI_DECODE stores `rssiDbm`, whose two cases are those of the signed byte. -/
theorem rssiDecodeCompletes : Obligations.RssiDecodeCompletes := by
  intro v s hs
  refine ⟨rssiDbm s.params v, fun h => ?_, fun h => ?_, fun hoffset => ?_, ?_⟩
  · rw [rssiDbm, signed8_of_ge h]
  · rw [rssiDbm, signed8_of_lt h]
  · have hbounds := rssiDbm_bounds s.params v
    omega
  · exact exec_run hs rfl trivial id rfl

/-- Settles O43: CLASSIFY stores `classOf`, whose three classes are three ranges of dBm. -/
theorem classifyCompletes : Obligations.ClassifyCompletes := by
  intro d s hs
  refine ⟨classOf s.params d.toInt, classOf_eq_veryWeak.2,
    fun hweak hstrong => classOf_eq_moderate.2 ⟨hweak, hstrong⟩,
    fun hweak hstrong => classOf_eq_strong.2 ⟨hweak, hstrong⟩, fun hweak hstrong => ?_, ?_⟩
  · rw [classOf_eq_veryWeak, classOf_eq_moderate, classOf_eq_strong, hweak, hstrong]
    omega
  · exact exec_run hs rfl trivial id rfl

/-- SIGNAL_STRENGTH of a configured block is one read of RSSI (R342). -/
theorem exec_signalStrength {s : State} (hs : LinkReady s) :
    exec .signalStrength s = .next (signalBody (beginOp s)) := by
  obtain ⟨⟨hready, hinit⟩, hconf⟩ := hs
  exact exec_run hready rfl trivial id (gateFault_link hinit hconf)

/-- The three LQ registers written one after the other (R43). -/
theorem storeClass_storeDbm_storeRaw (c : LqClass) (d : Int) (v : Byte) (s : State) :
    storeClass c (storeDbm d (storeRaw v s)) = { s with
      lqRaw := v, lqDbm := d, lqClass := c
      written := { s.written with lqRaw := true, lqDbm := true, lqClass := true } } := rfl

/-- Settles O41: the read of RSSI is complete, and its second byte is decoded and classified, or it is short. -/
theorem signalStrengthCompletes : Obligations.SignalStrengthCompletes := by
  intro miso e s hs h
  rw [exec_signalStrength hs, signalBody, frameReadStatus_eq, beginOp_params]
  refine ⟨fun m v hmiso => ⟨rssiDbm s.params v, rssiDbm_eq s.params v, ?_⟩, fun hshort => ?_⟩
  · subst hmiso
    rw [xferAt_complete (s := beginOp s) h rfl, storeClass_storeDbm_storeRaw, classOf]
    rfl
  · rw [xferAt_cut (s := beginOp s) h hshort]
    rfl

end Sys2Proof.Machine
end

section
/-! PROOFS. CONFIGURE on settled answers (45_configuration.md R371): where the operation stands after each write of its
image, and how it ends. -/

namespace Sys2Proof.Machine

/-- The writes of an image on the trace, one transaction each (R371). -/
def imageEvents (image : List (Addr × Byte)) (answers : List (List Byte)) : List Event :=
  (List.zipWith (fun x m => transaction [x.1.setWidth 8, x.2] m) image answers).flatten

/-- The state after the complete writes of an image, from pair i on, that left `rest` of the answers. -/
def imageWritten (i : Nat) (image : List (Addr × Byte)) (answers rest : List (List Byte)) (s : State) : State :=
  { s with
    cs := if image = [] then s.cs else true
    phase := if image = [] then s.phase else .cfgWrite (i + image.length - 1)
    env := { s.env with busTape := rest }
    trace := s.trace ++ imageEvents image answers }

section
variable {s : State} {a : Addr} {v : Byte} {left image : List (Addr × Byte)} {answers rest : List (List Byte)} {i : Nat}
  {k : State → State}

/-- A write whose settled answer is complete is followed by the next (R371). -/
theorem configWrites_cons {m : List Byte} {later : List (List Byte)} (hs : s.env.source = .oracle)
    (ht : s.env.busTape = m :: later) (hm : m.length = 2) : configWrites i ((a, v) :: left) s k =
      configWrites (i + 1) left
        (moved [a.setWidth 8, v] m { s.env with busTape := later } (atPhase (.cfgWrite i) s)) k := by
  rw [configWrites, frameWriteSingle, commandByte_write, xferAt_settled (mosi := [a.setWidth 8, v]) hs ht hm]

/-- A write whose settled answer is short is the last (R162, R371). -/
theorem configWrites_cut {m : List Byte} (hs : s.env.source = .oracle) (ht : s.env.busTape = m :: rest)
    (hm : m.length < 2) : configWrites i ((a, v) :: left) s k =
      busFault (moved [a.setWidth 8, v] m { s.env with busTape := rest } (atPhase (.cfgWrite i) s)) := by
  have hanswer : s.busAnswer [a.setWidth 8, v] = (m, { s.env with busTape := rest }) :=
    (State.busAnswer_tape hs ht).trans (congrArg (·, _) (List.take_of_length_le hm.le))
  rw [configWrites, frameWriteSingle, commandByte_write, xferAt_cut hanswer hm]

/-- No write, and no answer taken. -/
theorem imageWritten_nil (h : s.env.busTape = rest) : imageWritten i [] [] rest s = s := by
  subst h
  simp [imageWritten, imageEvents]

/-- The first write, then the others, each at a phase one further on. -/
theorem imageWritten_cons (m : List Byte) (later : List (List Byte)) :
    imageWritten (i + 1) image answers rest
      (moved [a.setWidth 8, v] m { s.env with busTape := later } (atPhase (.cfgWrite i) s)) =
    imageWritten i ((a, v) :: image) (m :: answers) rest s := by
  cases image with
  | nil => simp [imageWritten, imageEvents, moved, atPhase]
  | cons =>
    simp [imageWritten, imageEvents, moved, atPhase]
    omega

/-- Writes whose settled answers are complete are followed by the rest of the image. -/
theorem configWrites_append (hs : s.env.source = .oracle) (ht : s.env.busTape = answers ++ rest)
    (hlen : answers.length = image.length) (hfull : ∀ m ∈ answers, m.length = 2) :
    configWrites i (image ++ left) s k =
      configWrites (i + image.length) left (imageWritten i image answers rest s) k := by
  induction image generalizing i answers s with
  | nil =>
    obtain rfl := List.eq_nil_of_length_eq_zero hlen
    exact congrArg (configWrites i left · k) (imageWritten_nil ht).symm
  | cons x image ih =>
    obtain ⟨a, v⟩ := x
    obtain ⟨m, answers, rfl⟩ := List.exists_cons_of_length_eq_add_one hlen
    obtain ⟨hm, hfull⟩ := List.forall_mem_cons.1 hfull
    rw [List.cons_append, configWrites_cons (later := answers ++ rest) hs ht hm,
      ih (by exact hs) rfl (Nat.succ.inj hlen) hfull, imageWritten_cons, List.length_cons, Nat.add_right_comm,
      Nat.add_assoc]

end

/-- CONFIGURE of configuration registers executes after a RESET (R34, R371). -/
theorem exec_configure {la : Byte} {image : List (Addr × Byte)} {s : State} (hs : BusReady s)
    (ha : ∀ x ∈ image, ConfigRange s.params x.1) :
    exec (.configure la image) s = .next (configureBody la image (beginOp s)) := by
  obtain ⟨hready, hinit⟩ := hs
  exact exec_run hready rfl ha id (gateFault_bus hinit)

/-- Settles O27: the writes with complete answers are the whole image, or a short one follows them. -/
theorem configureCompletes : Obligations.ConfigureCompletes := by
  intro la image answers rest lines s hs hphase ha hfull
  rw [exec_configure hs ha, configureBody]
  refine ⟨fun hlen ⟨hsource, htape, _⟩ => ?_, fun done left a v m himage hlen hm ⟨hsource, htape, _⟩ => ?_⟩
  · rw [← List.append_nil image, configWrites_append (s := clearConfigured (beginOp s)) hsource htape hlen hfull,
      configWrites]
    simp [imageWritten, imageEvents, hphase, raise, setLocalAddr, clearConfigured, beginOp, clearCounters]
  · rw [himage, configWrites_append (s := clearConfigured (beginOp s)) hsource htape hlen hfull,
      configWrites_cut (m := m) (rest := rest) (by exact hsource) rfl hm, Nat.zero_add]
    rfl

end Sys2Proof.Machine
end

section
/-! PROOFS. Model faults (60_exceptions.md R402): they are raised at admission only, before anything is written, since
no operation that executes in a state of the invariant raises one. -/

namespace Sys2Proof.Machine

/-! ### Operations that execute raise no fault -/

/-- What an operation that began in s₀ keeps between its transactions: no fault has been raised, and what decides whether
one can be is as it was. -/
structure Unfaulted (s₀ s : State) : Prop where
  params : s.params = s₀.params
  localAddr : s.written.localAddr = s₀.written.localAddr
  faulted : s.faulted = false

theorem Unfaulted.refl {s : State} (h : s.faulted = false) : Unfaulted s s := ⟨rfl, rfl, h⟩

/-- Transactions, strobes, polls and endings raise no model fault. -/
theorem samples_unfaulted (s₀ : State) : Samples (Unfaulted s₀) (State.faulted · = false) where
  phase _ _ h := { h with }
  answer _ _ h _ := { h with }
  short _ _ h _ := h.faulted
  ending _ _ _ _ h _ := h.faulted
  mode _ _ h := { h with }
  line _ h := { h with }
  polls _ _ h := { h with }
  retries _ _ h := { h with }

/-- The address comparison is the one place where an operation that executes can fault, and it asks whether LOCAL_ADDR
is written (R32, R402). -/
theorem receiveBody_faulted_eq_false {s : State} (hf : s.faulted = false) (hla : s.written.localAddr = true) :
    (receiveBody s).faulted = false :=
  (samples_unfaulted s).receiveBody (size := s.params.rxBufLen) (fun _ ht => { ht with }) (fun _ ht => { ht with })
    (fun _ ht => congrArg Params.rxBufLen ht.params) (fun _ _ _ ht => { ht with })
    (fun _ ht hw => absurd (hw.symm.trans (ht.localAddr.trans hla)) Bool.false_ne_true) (.refl hf)

/-- A short SRES ends in BUS_FAULT, which is an outcome and no model fault (R209). -/
theorem sresThen_faulted_eq_false {s : State} {k : State → State} (hf : s.faulted = false)
    (hk : ∀ t, t.faulted = false → (k t).faulted = false) : (sresThen s k).faulted = false :=
  xferOr_cases (P := (State.faulted · = false)) (fun _ => hf) fun _ => hk _ hf

/-- No host operation whose gate is open raises a fault, if a configured block has a local address (R32). -/
theorem admission_body_faulted_eq_false {i : Instr} {p : Params} {s : State} (hf : s.faulted = false)
    (hla : s.configured = true → s.written.localAddr = true) (hg : gateFault (admission p i).gate s = none) :
    ((admission p i).body s).faulted = false := by
  have samples := samples_unfaulted s
  have keeps := samples.toTransacts
  have h : Unfaulted s s := .refl hf
  cases i with
  | wreg | wburst => exact keeps.writeBody h
  | rreg | rstatus | rburst => exact keeps.readBody (fun _ _ ht => { ht with }) h
  | strobe code =>
    rw [admission]
    cases Strobe.ofCode p code with
    | none => exact hf
    | some c => exact samples.strobeBody h
  | reset => exact sresThen_faulted_eq_false hf fun _ ht => ht
  | configure => exact keeps.configWrites 0 _ { h with } fun _ ht => ht.faulted
  | send => exact samples.sendBody { h with }
  | receive => exact receiveBody_faulted_eq_false hf (hla (configured_of_gate hg))
  | signalStrength =>
    exact keeps.signalBody (fun _ _ ht => { ht with }) (fun _ _ ht => { ht with }) (fun _ _ ht => { ht with }) h
  | _ => exact hf

/-- No bus command that is performed raises a fault. -/
theorem command_body_faulted_eq_false {i : Instr} {p : Params} {s : State} (hf : s.faulted = false) :
    ((command p i).body s).faulted = false := by
  have keeps := (samples_unfaulted s).toStrobes
  have h : Unfaulted s s := .refl hf
  cases i with
  | busWriteSingle | busWriteBurst | busFifoWrite => exact keeps.xferThen h fun _ _ _ ht => ht.faulted
  | busReadSingle | busReadStatus | busReadBurst | busFifoRead | busReadRssi | busReadMarcstate | busReadRxbytes =>
    exact keeps.xferThen h fun _ _ _ ht => ht.faulted
  | busSres => exact sresThen_faulted_eq_false hf fun _ ht => ht
  | busSrx | busStx | busSidle | busSfrx | busSftx => exact keeps.strobeThen h fun _ ht => ht.faulted
  | _ => exact hf

/-! ### A fault changes nothing else (R402) -/

/-- If t is FAULTED, it is s but for FAULTED and the fault's cause. -/
def FaultsOnly (s t : State) : Prop :=
  t.faulted = true → t = { s with faulted := true, faultCause := t.faultCause }

theorem FaultsOnly.refl (s : State) : FaultsOnly s s := fun h => by rw [← h]

theorem FaultsOnly.modelFault (f : Fault) (s : State) : FaultsOnly s (modelFault f s) := fun _ => rfl

theorem FaultsOnly.of_unfaulted {s t : State} (h : t.faulted = false) : FaultsOnly s t :=
  fun ht => absurd (h.symm.trans ht) Bool.false_ne_true

theorem faultsOnly_admitOp {refused : Bool} {arg : Option ArgOutcome} {g : Gate} {s : State} {body : State → State}
    (hbody : s.faulted = false → gateFault g s = none → (body (beginOp s)).faulted = false) :
    FaultsOnly s (admitOp refused arg g s body) :=
  admitOp_cases (fun _ => .refl s) (fun _ _ => .modelFault _ s) (fun hs _ => .of_unfaulted hs.1)
    (fun _ hs _ _ => .of_unfaulted hs.1) (fun f _ _ _ _ => .modelFault f s)
    fun hs _ _ hg => .of_unfaulted (hbody hs.1 hg)

theorem faultsOnly_admitBus {ok needsInit : Bool} {s : State} {body : State → State}
    (hbody : s.faulted = false → (body s).faulted = false) : FaultsOnly s (admitBus ok needsInit s body) :=
  admitBus_cases (fun _ => .refl s) (fun hf _ => .of_unfaulted hf) (fun _ _ _ => .modelFault _ s)
    (fun _ _ _ _ _ => .modelFault _ s) fun hf _ _ _ => .of_unfaulted (hbody hf)

/-- Settles O18: a step that ends FAULTED is one that admission stopped there, for the invariant's local address keeps
RECEIVE, the one operation with a fault of its own, from raising it. -/
theorem modelFaultsChangeNothingElse : Obligations.ModelFaultsChangeNothingElse := by
  intro i s t hinv ht
  show FaultsOnly s t
  cases hb : i.isBus with
  | false =>
    rw [exec_host hb] at ht
    cases ht
    exact faultsOnly_admitOp fun hf hg =>
      admission_body_faulted_eq_false hf (fun hc => (hinv.run.configured hc).2) hg
  | true =>
    rw [exec_bus hb] at ht
    cases ht
    exact faultsOnly_admitBus command_body_faulted_eq_false

end Sys2Proof.Machine
end

section
/-! PROOFS. The power-on state (70_reset_and_hazards.md R450), and what the trace of a SEND that reports OK shows before
its last flush (R460): SEND walked once, with the last events put on the trace. -/

namespace Sys2Proof.Machine

/-! ### Power-on (R450) -/

/-- An empty TX_FRAME has no byte to read (R41). -/
theorem readTxFrame_eq_none {s : State} (h : s.txFrameLen = 0) (i : Nat) : s.readTxFrame i = none := by
  rw [State.readTxFrame, State.txFrameBytes, h, List.take_zero, List.getElem?_nil]

/-- Settles O9: the registers have the values of R47's column, and every read finds its register unwritten. -/
theorem powerOnState : Obligations.PowerOnState := by
  have htx : ∀ i, State.reset.readTxFrame i = none := readTxFrame_eq_none rfl
  refine ⟨rfl, rfl, rfl, rfl, rfl, rfl, rfl, rfl, rfl, rfl, rfl, rfl, ?_⟩
  exact ⟨rfl, rfl, rfl, rfl, rfl, rfl, htx, rfl, rfl, rfl, rfl, rfl, rfl, rfl, rfl, rfl, rfl⟩

/-! ### The walk to an OK -/

/-- P holds where an operation ends in OK; other ends do not count. -/
def IfOk (P : State → Prop) (t : State) : Prop := t.outcome = .ok → P t

/-- An operation that began in s stands in t: the parameters stay, and es are the last events on the trace. -/
structure Recent (s : State) (es : List Event) (t : State) : Prop where
  params : t.params = s.params
  trace : ∃ earlier, t.trace = s.trace ++ earlier ++ es

/-- What follows SEND's last flush: with RX_AFTER_TX the re-entry into RX, else nothing (R272, R274). -/
def FinishEvents (p : Params) (es : List Event) : Prop :=
  if p.rxAfterTx then ∃ x y, es = strobed p.codeSfrx x ++ strobed p.codeSrx y else es = []

/-- Since s the line has been seen asserted and then deasserted before SEND's last SIDLE and SFTX (R460). -/
def CompletionSeen (s t : State) : Prop :=
  ∃ n m m' later, FinishEvents s.params later ∧
    Recent s (samples (true :: List.replicate n true ++ [false]) ++
      strobed s.params.codeSidle m ++ strobed s.params.codeSftx m' ++ later) t

namespace Recent
variable {s t u : State} {es fs : List Event} {P : State → Prop}

theorem start (s : State) : Recent s [] s := ⟨rfl, [], by simp⟩

theorem append (h : Recent s es t) (hp : u.params = t.params) (hu : u.trace = t.trace ++ fs) :
    Recent s (es ++ fs) u := by
  obtain ⟨earlier, htrace⟩ := h.trace
  exact ⟨hp.trans h.params, earlier, by rw [hu, htrace, List.append_assoc]⟩

/-- The older of the last events may be forgotten. -/
theorem drop (h : Recent s (es ++ fs) t) : Recent s fs t := by
  obtain ⟨earlier, htrace⟩ := h.trace
  exact ⟨h.params, earlier ++ es, by simpa using htrace⟩

/-- A short transaction ends in BUS_FAULT (R162, R288). -/
theorem xferAt (h : Recent s es t) {p : Phase} {mosi : List Byte} {k : List Byte → State → State}
    (hk : ∀ miso u, miso.length = mosi.length → Recent s (es ++ transaction mosi miso) u → IfOk P (k miso u)) :
    IfOk P (xferAt p mosi t k) :=
  xferOr_cases (fun _ => nofun) fun hl =>
    hk _ _ hl (h.append rfl (by rw [xfer_trace, transactionEvents_eq]; rfl))

theorem strobeAt (h : Recent s es t) {p : Phase} {c : Strobe} {k : State → State}
    (hk : ∀ m u, Recent s (es ++ strobed (c.code s.params) m) u → IfOk P (k u)) : IfOk P (strobeAt p c t k) := by
  refine h.xferAt fun miso u hl hu => ?_
  obtain ⟨m, rfl⟩ := List.length_eq_one_iff.1 hl
  refine hk m _ { hu with trace := ?_ }
  rw [← h.params]
  exact hu.trace

/-! ### The completion line (R271) -/

/-- A wait that is met has sampled the other level until the last sample, whoever answers the line. -/
theorem pollLoop (level : Bool) (n : Nat) {t : State} (h : Recent s es t) (hmet : (pollLoop level n t).1 = true) :
    ∃ j, Recent s (es ++ samples (List.replicate j (!level)) ++ [.sample level]) (pollLoop level n t).2 := by
  induction n generalizing t es with
  | zero => cases hmet
  | succ n ih =>
    have hpolled : Recent s (es ++ [.sample (sampleLine t).1])
        (setPolls ((sampleLine t).2.polls + 1) (sampleLine t).2) := h.append rfl rfl
    rw [Machine.pollLoop] at hmet ⊢
    split at hmet
    next hlevel =>
      rw [if_pos hlevel]
      rw [hlevel] at hpolled
      exact ⟨0, by simpa [samples] using hpolled⟩
    next hlevel =>
      rw [if_neg hlevel]
      rw [Bool.eq_not.2 hlevel] at hpolled
      obtain ⟨j, hj⟩ := ih hpolled hmet
      exact ⟨j + 1, by simpa [samples, List.replicate_succ] using hj⟩

theorem pollAt (h : Recent s es t) {p : Phase} {level : Bool} {n : Nat} {onTimeout k : State → State}
    (ht : ∀ u, IfOk P (onTimeout u))
    (hk : ∀ j u, Recent s (es ++ samples (List.replicate j (!level)) ++ [.sample level]) u → IfOk P (k u)) :
    IfOk P (pollAt p level n t onTimeout k) := by
  have hpoll := pollLoop level n (t := setPolls 0 (atPhase p t)) { h with }
  rw [Machine.pollAt, pollUntil]
  revert hpoll
  rcases Machine.pollLoop level n (setPolls 0 (atPhase p t)) with ⟨_ | _, u⟩ <;> intro hpoll
  · exact ht u
  · obtain ⟨j, hj⟩ := hpoll rfl
    exact hk j u hj

/-! ### SEND (R272, R273) -/

/-- The recovery from a wait that timed out reports TX_TIMEOUT, or BUS_FAULT. -/
theorem ifOk_txRecover (waiting : Phase) (t : State) : IfOk P (txRecover waiting t) :=
  (start t).strobeAt fun _ _ hu => hu.strobeAt fun _ _ _ => nofun

theorem sendFinish (h : Recent s es t)
    (hend : ∀ later u, FinishEvents s.params later → Recent s (es ++ later) u → P u) : IfOk P (sendFinish t) := by
  cases hrx : s.params.rxAfterTx with
  | false =>
    rw [sendFinish_idle (by rw [h.params, hrx])]
    exact fun _ => hend [] _ (by simp [FinishEvents, hrx]) (h.append rfl (List.append_nil _).symm)
  | true =>
    rw [sendFinish_rx (by rw [h.params, hrx])]
    refine h.strobeAt fun x _ hu => hu.strobeAt fun y _ hv _ => ?_
    refine hend (strobed s.params.codeSfrx x ++ strobed s.params.codeSrx y) _ ?_ ?_
    · rw [FinishEvents, if_pos hrx]
      exact ⟨x, y, rfl⟩
    · rw [← List.append_assoc]
      exact { hv with }

/-- From the start of the transmission on, the sample that showed it being the last event. -/
theorem sendStarted (h : Recent s [.sample true] t) : IfOk (CompletionSeen s) (sendStarted t) :=
  h.pollAt (ifOk_txRecover _) fun n _ hu =>
  hu.strobeAt fun m _ hu =>
  hu.strobeAt fun m' _ hu =>
  hu.sendFinish fun later _ hlater hu => ⟨n, m, m', later, hlater, by simpa [samples, Strobe.code] using hu⟩

theorem sendBody (h : Recent s es t) (dest : Byte) (d : List Byte) : IfOk (CompletionSeen s) (sendBody dest d t) :=
  have hstored : Recent s es (storeFrame (frameOf dest d) t) := { h with }
  hstored.strobeAt fun _ _ hu =>
  hu.strobeAt fun _ _ hu =>
  hu.xferAt fun _ _ _ hu =>
  hu.strobeAt fun _ _ hu =>
  hu.pollAt (ifOk_txRecover _) fun _ _ hu => hu.drop.sendStarted

end Recent

/-- Settles O59: SEND reports OK only past both waits, the first of which ends in the line asserted, and the second in
it deasserted. -/
theorem completionBeforeFlush : Obligations.CompletionBeforeFlush := by
  intro dest d s t hs hsize ht hok
  rw [exec_send hs hsize] at ht
  cases ht
  have hbegun : Recent s [] (beginOp s) := { Recent.start s with }
  obtain ⟨n, m, m', later, hlater, -, es, htrace⟩ := hbegun.sendBody dest d hok
  exact ⟨es, n, m, m', later, hlater, by simpa only [List.append_assoc] using htrace⟩

end Sys2Proof.Machine
end
